-- ==== Sys2Proof/Word.lean ====
section
/-!
DEFINITION. Word types of the machine: the 8-bit register and memory byte, the 16-bit instruction
word and index register, and the names of registers and keys.
-/

namespace Sys2Proof

/-- A byte: a general register (R20) or one memory byte (R50). -/
abbrev Byte := BitVec 8

/-- A 16-bit word: an instruction word (R70) or the index register (R23). -/
abbrev Word := BitVec 16

/-- The number of a general register, V0 to VF (R20). -/
abbrev RegIdx := Fin 16

/-- One of the 16 logical keys, 0 to F (R6). -/
abbrev Key := Fin 16

/-- VF, the register that doubles as the flag (R21). -/
abbrev vF : RegIdx := 15

/-- `bool(c)` as a byte: 1 if c holds, 0 otherwise (00_scope.md section 5). -/
def flagByte (c : Bool) : Byte := if c then 1#8 else 0#8

@[simp] theorem flagByte_true : flagByte true = 1#8 := rfl
@[simp] theorem flagByte_false : flagByte false = 0#8 := rfl

end Sys2Proof
end

