-- ==== Sys2Proof/Config.lean ====
section
/-!
DEFINITION. What is fixed for a run (the implementation parameters of R10) and the free values, which
the spec leaves to the host or to the interleaving of the agents.
-/

namespace Sys2Proof

/-- The two timer units: delay and sound (R30). -/
inductive TimerId where
  | dt
  | st
deriving DecidableEq, Repr, Inhabited

/-- The three agents that take steps (R5, R243). -/
inductive Agent where
  | engine
  | timer (t : TimerId)
deriving DecidableEq, Repr, Inhabited

/-- `FLAG_ORDER`: which write lands last when the destination of a flag-setting ALU instruction is
VF (R131). -/
inductive FlagOrder where
  | flagLast
  | resultLast
deriving DecidableEq, Repr

/-- The implementation parameters the step reads (R10). They stand in State as plain data, so a
statement about every state is a statement about every value of them (log 1). -/
structure Config where
  /-- `MEM_SIZE`, the number of bytes of the address space (R50). -/
  memSize : Nat
  /-- `FLAG_ORDER` (R131). -/
  flagOrder : FlagOrder
  /-- `MAX_CALL_DEPTH`; `none` is no limit (R106). -/
  maxCallDepth : Option Nat
  /-- `TIMER_TERMINAL`, the counter value at which a tick stops its unit for good (R233). -/
  timerTerminal : Nat
  /-- `TIMER_TICK_ATOMIC`: true fuses the two micro-steps of a tick (R233). -/
  tickAtomic : Bool
deriving DecidableEq, Repr

/-- The constraints R10 puts on the parameters. -/
def Config.wf (c : Config) : Bool := decide (4096 ≤ c.memSize) && decide (256 ≤ c.timerTerminal)

/-- `FONT_BASE` (R10, R59; D3, log 28). -/
def fontBase : Nat := 0x50

/-- The font region's size: 16 glyphs of 5 bytes (R40). -/
def fontSize : Nat := 80

/-- `PROGRAM_BASE`, which is also the reset pc (R10, R60; D4, log 28). -/
def programBase : Nat := 0x200

/-- The conventional glyphs of R40, which the spec lists for simulators only and marks as general
knowledge. PRESUMED (log 4): `FONT_GLYPHS` is OPEN. -/
def conventionalFont : List Byte :=
  [0xF0, 0x90, 0x90, 0x90, 0xF0,  0x20, 0x60, 0x20, 0x20, 0x70] ++
  [0xF0, 0x10, 0xF0, 0x80, 0xF0,  0xF0, 0x10, 0xF0, 0x10, 0xF0] ++
  [0x90, 0x90, 0xF0, 0x10, 0x10,  0xF0, 0x80, 0xF0, 0x10, 0xF0] ++
  [0xF0, 0x80, 0xF0, 0x90, 0xF0,  0xF0, 0x10, 0x20, 0x40, 0x40] ++
  [0xF0, 0x90, 0xF0, 0x90, 0xF0,  0xF0, 0x90, 0xF0, 0x10, 0xF0] ++
  [0xF0, 0x90, 0xF0, 0x90, 0x90,  0xE0, 0x90, 0xE0, 0x90, 0xE0] ++
  [0xF0, 0x80, 0x80, 0x80, 0xF0,  0xE0, 0x90, 0x90, 0x90, 0xE0] ++
  [0xF0, 0x80, 0xF0, 0x80, 0xF0,  0xF0, 0x80, 0xF0, 0x80, 0x80]

/-- The parameter values the spec recommends to simulators (D2, D8; the others are DESIGN CHOICES of
log 2). Only `State.reset` uses them. -/
def Config.simulator : Config where
  memSize := 4096
  flagOrder := .flagLast
  maxCallDepth := none
  timerTerminal := 256
  tickAtomic := false

/-! ### Free values

None of these has a body: nothing can be proved of them but what holds of every value. -/

/-- Which agent makes the n-th move when State has no decided turn left (R64, R237; log 6). -/
opaque Config.freeTurn : Nat → Agent

/-- The host's answer to the n-th query when it is `KeyHeld(k)` and none is decided (R6; log 8). -/
opaque Config.freeHeld : Nat → Key → Bool

/-- The host's answer to the n-th query when it is `FirstHeld()` and none is decided (R6; log 8). -/
opaque Config.freeFirst : Nat → Option Key

/-- The host's answer to the n-th query when it is `RandomByte()` and none is decided (R8; log 8). -/
opaque Config.freeRandom : Nat → Byte

end Sys2Proof
end

