-- ==== Sys2Proof/Syntax.lean ====
section
/-!
DEFINITION. The 34 instructions of spec/opcode_table.json, one constructor a row, each carrying its
decoded operands (R74, R78). Registers are named by `RegIdx`, immediate bytes are bytes, and the
address NNN and the row count N are natural numbers whose bounds WellFormed checks.
-/

namespace Sys2Proof

/-- One instruction with its operands (R75). -/
inductive Instr where
  /-- 00E0, clear the display (R160). -/
  | cls
  /-- 00EE, return from subroutine (R104). -/
  | ret
  /-- 1NNN, jump (R105). -/
  | jp (nnn : Nat)
  /-- 2NNN, call subroutine (R106). -/
  | call (nnn : Nat)
  /-- 3XNN, skip if VX = NN (R112). -/
  | seByte (x : RegIdx) (nn : Byte)
  /-- 4XNN, skip if VX ≠ NN (R113). -/
  | sneByte (x : RegIdx) (nn : Byte)
  /-- 5XY0, skip if VX = VY (R114). -/
  | seReg (x y : RegIdx)
  /-- 6XNN, load immediate (R132). -/
  | ldByte (x : RegIdx) (nn : Byte)
  /-- 7XNN, add immediate (R133). -/
  | addByte (x : RegIdx) (nn : Byte)
  /-- 8XY0, copy (R134). -/
  | ldReg (x y : RegIdx)
  /-- 8XY1, OR (R135). -/
  | orReg (x y : RegIdx)
  /-- 8XY2, AND (R136). -/
  | andReg (x y : RegIdx)
  /-- 8XY3, XOR (R137). -/
  | xorReg (x y : RegIdx)
  /-- 8XY4, add with the carry into VF (R138). -/
  | addReg (x y : RegIdx)
  /-- 8XY5, VX minus VY (R139). -/
  | subReg (x y : RegIdx)
  /-- 8XY6, shift VX right; Y is decoded and ignored (R73, R140). -/
  | shr (x y : RegIdx)
  /-- 8XY7, VY minus VX (R141). -/
  | subnReg (x y : RegIdx)
  /-- 8XYE, shift VX left; Y is decoded and ignored (R73, R142). -/
  | shl (x y : RegIdx)
  /-- 9XY0, skip if VX ≠ VY (R115). -/
  | sneReg (x y : RegIdx)
  /-- ANNN, load the index register (R200). -/
  | ldI (nnn : Nat)
  /-- BNNN, jump to NNN + V0 (R107). -/
  | jpV0 (nnn : Nat)
  /-- CXNN, random byte AND NN (R143). -/
  | rnd (x : RegIdx) (nn : Byte)
  /-- DXYN, draw a sprite of N rows (R161). -/
  | drw (x y : RegIdx) (n : Nat)
  /-- EX9E, skip if key VX is held (R180). -/
  | skp (x : RegIdx)
  /-- EXA1, skip if key VX is not held (R181). -/
  | sknp (x : RegIdx)
  /-- FX07, read the delay timer (R185). -/
  | ldVxDT (x : RegIdx)
  /-- FX0A, wait for a key (R182). -/
  | ldVxK (x : RegIdx)
  /-- FX15, set the delay timer (R183). -/
  | ldDTVx (x : RegIdx)
  /-- FX18, set the sound timer (R184). -/
  | ldSTVx (x : RegIdx)
  /-- FX1E, add VX to I (R202). -/
  | addI (x : RegIdx)
  /-- FX29, point I at a font glyph (R204). -/
  | ldF (x : RegIdx)
  /-- FX33, store the decimal digits of VX (R205). -/
  | ldB (x : RegIdx)
  /-- FX55, store V0..VX (R206). -/
  | storeRegs (x : RegIdx)
  /-- FX65, load V0..VX (R207). -/
  | loadRegs (x : RegIdx)
deriving DecidableEq, Repr

end Sys2Proof
end

