-- ==== Sys2Proof/WellFormed.lean ====
section
/-!
DEFINITION. Which instructions an encoding can hold: an address operand NNN has 12 bits and the row
count N of DXYN has 4 (R71, R72). Register numbers and immediate bytes are bounded by their types.
-/

namespace Sys2Proof

/-- The address operand fits the 12-bit field NNN (R71). -/
def addrFits (nnn : Nat) : Bool := decide (nnn < 0x1000)

/-- The row count fits the 4-bit field N (R71). -/
def countFits (n : Nat) : Bool := decide (n < 16)

/-- Every operand fits its field. -/
def Instr.wf : Instr → Bool
  | .cls => true
  | .ret => true
  | .jp nnn => addrFits nnn
  | .call nnn => addrFits nnn
  | .seByte _ _ => true
  | .sneByte _ _ => true
  | .seReg _ _ => true
  | .ldByte _ _ => true
  | .addByte _ _ => true
  | .ldReg _ _ => true
  | .orReg _ _ => true
  | .andReg _ _ => true
  | .xorReg _ _ => true
  | .addReg _ _ => true
  | .subReg _ _ => true
  | .shr _ _ => true
  | .subnReg _ _ => true
  | .shl _ _ => true
  | .sneReg _ _ => true
  | .ldI nnn => addrFits nnn
  | .jpV0 nnn => addrFits nnn
  | .rnd _ _ => true
  | .drw _ _ n => countFits n
  | .skp _ => true
  | .sknp _ => true
  | .ldVxDT _ => true
  | .ldVxK _ => true
  | .ldDTVx _ => true
  | .ldSTVx _ => true
  | .addI _ => true
  | .ldF _ => true
  | .ldB _ => true
  | .storeRegs _ => true
  | .loadRegs _ => true

end Sys2Proof
end

