-- ==== Sys2Proof/Decode.lean ====
section
/-!
DEFINITION. The decoder (R74 to R76), total on any word and on any bytes, and after it the encoder
written from the same formats (R73), with the match and mask of each row of spec/opcode_table.json.
-/

namespace Sys2Proof

/-! ### Fields of an instruction word (R71) -/

/-- "nibble1": w[15:12], the opcode family. -/
def familyOf (w : Word) : BitVec 4 := w.extractLsb' 12 4

/-- A register field: the four bits from `lo` up, as a register number. -/
def regOf (w : Word) (lo : Nat) : RegIdx := (w.extractLsb' lo 4).toFin

/-- "nibble2": w[11:8], the index of register VX. -/
def fieldX (w : Word) : RegIdx := regOf w 8

/-- "nibble3": w[7:4], the index of register VY. -/
def fieldY (w : Word) : RegIdx := regOf w 4

/-- "nibble4": w[3:0], a count or a sub-opcode. -/
def fieldN (w : Word) : BitVec 4 := w.extractLsb' 0 4

/-- "byte2": w[7:0], an immediate byte or a sub-opcode. -/
def fieldNN (w : Word) : Byte := w.extractLsb' 0 8

/-- "addr12": w[11:0], a 12-bit address, zero-extended (R72). -/
def fieldNNN (w : Word) : Nat := (w.extractLsb' 0 12).toNat

/-! ### Decoding -/

/-- Why a word is illegal: the family whose sub-opcode it misses (R75, R76). -/
inductive Illegal where
  /-- 0NNN other than 00E0 and 00EE. -/
  | family0
  /-- 5XYN with N ≠ 0. -/
  | family5
  /-- 8XYN with N one of 8, 9, A, B, C, D, F. -/
  | family8
  /-- 9XYN with N ≠ 0. -/
  | family9
  /-- EXNN with NN neither 9E nor A1. -/
  | familyE
  /-- FXNN with NN none of 07, 0A, 15, 18, 1E, 29, 33, 55, 65. -/
  | familyF
deriving DecidableEq, Repr

/-- What decoding a word gives: an instruction term or `Illegal` (R74). -/
inductive Decoded where
  | instr (i : Instr)
  | illegal (why : Illegal)
deriving DecidableEq, Repr

/-- Family 0 is selected by NNN (R74, R75). -/
def decode0 (w : Word) : Decoded :=
  match fieldNNN w with
  | 0x0E0 => .instr .cls
  | 0x0EE => .instr .ret
  | _ => .illegal .family0

/-- Family 8 is selected by N (R74, R75). -/
def decode8 (w : Word) : Decoded :=
  match (fieldN w).toNat with
  | 0x0 => .instr (.ldReg (fieldX w) (fieldY w))
  | 0x1 => .instr (.orReg (fieldX w) (fieldY w))
  | 0x2 => .instr (.andReg (fieldX w) (fieldY w))
  | 0x3 => .instr (.xorReg (fieldX w) (fieldY w))
  | 0x4 => .instr (.addReg (fieldX w) (fieldY w))
  | 0x5 => .instr (.subReg (fieldX w) (fieldY w))
  | 0x6 => .instr (.shr (fieldX w) (fieldY w))
  | 0x7 => .instr (.subnReg (fieldX w) (fieldY w))
  | 0xE => .instr (.shl (fieldX w) (fieldY w))
  | _ => .illegal .family8

/-- Family E is selected by NN (R74, R75). -/
def decodeE (w : Word) : Decoded :=
  match (fieldNN w).toNat with
  | 0x9E => .instr (.skp (fieldX w))
  | 0xA1 => .instr (.sknp (fieldX w))
  | _ => .illegal .familyE

/-- Family F is selected by NN (R74, R75). -/
def decodeF (w : Word) : Decoded :=
  match (fieldNN w).toNat with
  | 0x07 => .instr (.ldVxDT (fieldX w))
  | 0x0A => .instr (.ldVxK (fieldX w))
  | 0x15 => .instr (.ldDTVx (fieldX w))
  | 0x18 => .instr (.ldSTVx (fieldX w))
  | 0x1E => .instr (.addI (fieldX w))
  | 0x29 => .instr (.ldF (fieldX w))
  | 0x33 => .instr (.ldB (fieldX w))
  | 0x55 => .instr (.storeRegs (fieldX w))
  | 0x65 => .instr (.loadRegs (fieldX w))
  | _ => .illegal .familyF

/-- The decoder: the family nibble first, then the sub-opcode (R74). The last arm is family F, the
only family left. -/
def decodeWord (w : Word) : Decoded :=
  match (familyOf w).toNat with
  | 0x0 => decode0 w
  | 0x1 => .instr (.jp (fieldNNN w))
  | 0x2 => .instr (.call (fieldNNN w))
  | 0x3 => .instr (.seByte (fieldX w) (fieldNN w))
  | 0x4 => .instr (.sneByte (fieldX w) (fieldNN w))
  | 0x5 => if fieldN w = 0#4 then .instr (.seReg (fieldX w) (fieldY w)) else .illegal .family5
  | 0x6 => .instr (.ldByte (fieldX w) (fieldNN w))
  | 0x7 => .instr (.addByte (fieldX w) (fieldNN w))
  | 0x8 => decode8 w
  | 0x9 => if fieldN w = 0#4 then .instr (.sneReg (fieldX w) (fieldY w)) else .illegal .family9
  | 0xA => .instr (.ldI (fieldNNN w))
  | 0xB => .instr (.jpV0 (fieldNNN w))
  | 0xC => .instr (.rnd (fieldX w) (fieldNN w))
  | 0xD => .instr (.drw (fieldX w) (fieldY w) (fieldN w).toNat)
  | 0xE => decodeE w
  | _ => decodeF w

/-- Two bytes as a big-endian word: the first is bits 15..8 (R52). -/
def wordOfBytes (hi lo : Byte) : Word := hi ++ lo

/-- The high byte of a word, stored at the lower address (R52). -/
def hiByte (w : Word) : Byte := w.extractLsb' 8 8

/-- The low byte of a word. -/
def loByte (w : Word) : Byte := w.extractLsb' 0 8

/-- What decoding a list of bytes gives: the instruction and the bytes after it, or the reason. -/
inductive DecodedBytes where
  | instr (i : Instr) (rest : List Byte)
  | illegal (why : Illegal) (w : Word)
  | tooShort
deriving DecidableEq, Repr

/-- Decoding from bytes: every instruction takes two, the first the high one (R70). -/
def decodeBytes : List Byte → DecodedBytes
  | hi :: lo :: rest =>
    match decodeWord (wordOfBytes hi lo) with
    | .instr i => .instr i rest
    | .illegal why => .illegal why (wordOfBytes hi lo)
  | _ => .tooShort

/-! ### Encoding -/

/-- A register number as a 4-bit field. -/
def nibOf (r : RegIdx) : BitVec 4 := BitVec.ofFin r

/-- Format A: `ffff nnnn nnnn nnnn` (R73). -/
def encodeA (f : BitVec 4) (nnn : Nat) : Word := f ++ BitVec.ofNat 12 nnn

/-- Format XK: `ffff xxxx kkkk kkkk` (R73). -/
def encodeXK (f : BitVec 4) (x : RegIdx) (nn : Byte) : Word := f ++ nibOf x ++ nn

/-- Formats XY and XYN: `ffff xxxx yyyy ssss` (R73). -/
def encodeXYN (f : BitVec 4) (x y : RegIdx) (n : BitVec 4) : Word := f ++ nibOf x ++ nibOf y ++ n

/-- The word of an instruction (R73, R75). -/
def encode : Instr → Word
  | .cls => 0x00E0#16
  | .ret => 0x00EE#16
  | .jp nnn => encodeA 0x1 nnn
  | .call nnn => encodeA 0x2 nnn
  | .seByte x nn => encodeXK 0x3 x nn
  | .sneByte x nn => encodeXK 0x4 x nn
  | .seReg x y => encodeXYN 0x5 x y 0x0
  | .ldByte x nn => encodeXK 0x6 x nn
  | .addByte x nn => encodeXK 0x7 x nn
  | .ldReg x y => encodeXYN 0x8 x y 0x0
  | .orReg x y => encodeXYN 0x8 x y 0x1
  | .andReg x y => encodeXYN 0x8 x y 0x2
  | .xorReg x y => encodeXYN 0x8 x y 0x3
  | .addReg x y => encodeXYN 0x8 x y 0x4
  | .subReg x y => encodeXYN 0x8 x y 0x5
  | .shr x y => encodeXYN 0x8 x y 0x6
  | .subnReg x y => encodeXYN 0x8 x y 0x7
  | .shl x y => encodeXYN 0x8 x y 0xE
  | .sneReg x y => encodeXYN 0x9 x y 0x0
  | .ldI nnn => encodeA 0xA nnn
  | .jpV0 nnn => encodeA 0xB nnn
  | .rnd x nn => encodeXK 0xC x nn
  | .drw x y n => encodeXYN 0xD x y (BitVec.ofNat 4 n)
  | .skp x => encodeXK 0xE x 0x9E
  | .sknp x => encodeXK 0xE x 0xA1
  | .ldVxDT x => encodeXK 0xF x 0x07
  | .ldVxK x => encodeXK 0xF x 0x0A
  | .ldDTVx x => encodeXK 0xF x 0x15
  | .ldSTVx x => encodeXK 0xF x 0x18
  | .addI x => encodeXK 0xF x 0x1E
  | .ldF x => encodeXK 0xF x 0x29
  | .ldB x => encodeXK 0xF x 0x33
  | .storeRegs x => encodeXK 0xF x 0x55
  | .loadRegs x => encodeXK 0xF x 0x65

/-- The bytes of an instruction as memory holds them (R52, R70). -/
def encodeBytes (i : Instr) : List Byte := [hiByte (encode i), loByte (encode i)]

/-! ### The opcode table -/

/-- One row of spec/opcode_table.json: a word is the row's when its bits under `mask` are `pat`. -/
abbrev OpcodeRow := Word × Word

/-- The word belongs to the row. -/
def rowMatches (w : Word) (row : OpcodeRow) : Bool := w &&& row.1 == row.2

/-- The rows of formats Z, A, XK and XYN, as (mask, match). -/
def wideRows : List OpcodeRow :=
  [(0xFFFF, 0x00E0), (0xFFFF, 0x00EE), (0xF000, 0x1000), (0xF000, 0x2000), (0xF000, 0x3000)] ++
  [(0xF000, 0x4000), (0xF000, 0x6000), (0xF000, 0x7000), (0xF000, 0xA000), (0xF000, 0xB000)] ++
  [(0xF000, 0xC000), (0xF000, 0xD000)]

/-- The rows of format XY, as (mask, match). -/
def registerPairRows : List OpcodeRow :=
  [(0xF00F, 0x5000), (0xF00F, 0x8000), (0xF00F, 0x8001), (0xF00F, 0x8002), (0xF00F, 0x8003)] ++
  [(0xF00F, 0x8004), (0xF00F, 0x8005), (0xF00F, 0x8006), (0xF00F, 0x8007), (0xF00F, 0x800E)] ++
  [(0xF00F, 0x9000)]

/-- The rows of format XS, as (mask, match). -/
def subOpcodeRows : List OpcodeRow :=
  [(0xF0FF, 0xE09E), (0xF0FF, 0xE0A1), (0xF0FF, 0xF007), (0xF0FF, 0xF00A), (0xF0FF, 0xF015)] ++
  [(0xF0FF, 0xF018), (0xF0FF, 0xF01E), (0xF0FF, 0xF029), (0xF0FF, 0xF033), (0xF0FF, 0xF055)] ++
  [(0xF0FF, 0xF065)]

/-- The 34 rows of spec/opcode_table.json. -/
def opcodeTable : List OpcodeRow := wideRows ++ registerPairRows ++ subOpcodeRows

/-- The row of spec/opcode_table.json an instruction stands for, as (mask, match). -/
def Instr.row : Instr → OpcodeRow
  | .cls => (0xFFFF, 0x00E0)
  | .ret => (0xFFFF, 0x00EE)
  | .jp _ => (0xF000, 0x1000)
  | .call _ => (0xF000, 0x2000)
  | .seByte _ _ => (0xF000, 0x3000)
  | .sneByte _ _ => (0xF000, 0x4000)
  | .seReg _ _ => (0xF00F, 0x5000)
  | .ldByte _ _ => (0xF000, 0x6000)
  | .addByte _ _ => (0xF000, 0x7000)
  | .ldReg _ _ => (0xF00F, 0x8000)
  | .orReg _ _ => (0xF00F, 0x8001)
  | .andReg _ _ => (0xF00F, 0x8002)
  | .xorReg _ _ => (0xF00F, 0x8003)
  | .addReg _ _ => (0xF00F, 0x8004)
  | .subReg _ _ => (0xF00F, 0x8005)
  | .shr _ _ => (0xF00F, 0x8006)
  | .subnReg _ _ => (0xF00F, 0x8007)
  | .shl _ _ => (0xF00F, 0x800E)
  | .sneReg _ _ => (0xF00F, 0x9000)
  | .ldI _ => (0xF000, 0xA000)
  | .jpV0 _ => (0xF000, 0xB000)
  | .rnd _ _ => (0xF000, 0xC000)
  | .drw _ _ _ => (0xF000, 0xD000)
  | .skp _ => (0xF0FF, 0xE09E)
  | .sknp _ => (0xF0FF, 0xE0A1)
  | .ldVxDT _ => (0xF0FF, 0xF007)
  | .ldVxK _ => (0xF0FF, 0xF00A)
  | .ldDTVx _ => (0xF0FF, 0xF015)
  | .ldSTVx _ => (0xF0FF, 0xF018)
  | .addI _ => (0xF0FF, 0xF01E)
  | .ldF _ => (0xF0FF, 0xF029)
  | .ldB _ => (0xF0FF, 0xF033)
  | .storeRegs _ => (0xF0FF, 0xF055)
  | .loadRegs _ => (0xF0FF, 0xF065)

/-! ### The host's reading of a table word -/

/-- The instruction the decoder reads from a word numbered as spec/opcode_table.json numbers it:
laid out in memory order (high byte first, R52) and given to the byte decoder. -/
def decodeTableWord (nbits w : Nat) : Option Instr :=
  match decodeBytes [hiByte (BitVec.ofNat 16 (w % 2 ^ nbits)), loByte (BitVec.ofNat 16 (w % 2 ^ nbits))] with
  | .instr i _ => some i
  | .illegal _ _ => none
  | .tooShort => none

end Sys2Proof
end

