-- ==== Sys2Proof/Machine/Display.lean ====
section
/-!
DEFINITION. The display buffer (R29) and plotting on it: the XOR of one pixel (R162), clipping (R163),
and a sprite's rows of eight pixels (R161).
-/

namespace Sys2Proof.Machine

/-- `disp[row][col]`, 32 rows of 64 pixels, true when lit (R29). -/
abbrev Grid := Vector (Vector Bool 64) 32

/-- Every pixel unset (R29, R160). -/
def Grid.clear : Grid := Vector.replicate 32 (Vector.replicate 64 false)

/-- The pixel at a row and a column. -/
def Grid.pixel (g : Grid) (r : Fin 32) (c : Fin 64) : Bool := (g.get r).get c

/-- The grid with one pixel set to `b`. -/
def Grid.setPixel (g : Grid) (r : Fin 32) (c : Fin 64) (b : Bool) : Grid :=
  g.set r.val ((g.get r).set c.val b c.isLt) r.isLt

/-- `PlotXor` (R162): flips the pixel if the bit is 1, and says whether a set pixel became unset. -/
def plotXor (g : Grid) (r : Fin 32) (c : Fin 64) (bit : Bool) : Grid × Bool :=
  if bit then (g.setPixel r c (!g.pixel r c), g.pixel r c) else (g, false)

/-- A plot at any row and column, clipped, never wrapped (R163). -/
def plotClipped (g : Grid) (r c : Nat) (bit : Bool) : Grid × Bool :=
  if h : r < 32 ∧ c < 64 then plotXor g ⟨r, h.1⟩ ⟨c, h.2⟩ bit else (g, false)

/-- One plot of a sprite on a grid that carries the collision flag so far. -/
def plotOnto (p : Grid × Bool) (r c : Nat) (bit : Bool) : Grid × Bool :=
  ((plotClipped p.1 r c bit).1, p.2 || (plotClipped p.1 r c bit).2)

/-- The column offsets of a sprite row, in plotting order. -/
def spriteColumns : List Nat := [0, 1, 2, 3, 4, 5, 6, 7]

/-- The bit of a row byte plotted at column offset `j`: bit 7 is leftmost (R161, D24; PRESUMED, log
14). -/
def spriteBit (row : Byte) (j : Nat) : Bool := row.getLsbD (7 - j)

/-- One row of a sprite at row `r`, its first pixel at column `ox` (the inner loop of R161). -/
def plotRow (p : Grid × Bool) (r ox : Nat) (row : Byte) : Grid × Bool :=
  spriteColumns.foldl (fun q j => plotOnto q r (ox + j) (spriteBit row j)) p

/-- The rows of a sprite from row `oy` down (the outer loop of R161). -/
def plotRows (p : Grid × Bool) (oy ox : Nat) : List Byte → Grid × Bool
  | [] => p
  | row :: rows => plotRows (plotRow p oy ox row) (oy + 1) ox rows

end Sys2Proof.Machine
end

