-- ==== Sys2Proof/Machine/Memory.lean ====
section
/-!
DEFINITION. The address space (R50) as data: a list of address and byte pairs in one canonical form.
Bounds are checked by the operations of Ops.lean (R53 to R55); here every natural number is an address.
-/

namespace Sys2Proof.Machine

/-- The listed bytes of the address space. -/
structure Memory where
  cells : List Host.Cell
deriving DecidableEq, Repr

/-- What an unlisted address reads as: the reset contents (R37). The font region reads as the
conventional glyphs (PRESUMED, log 4) and everything else as 0 (DESIGN CHOICE, log 3). -/
def unlisted (a : Nat) : Byte :=
  if fontBase ≤ a ∧ a < fontBase + fontSize then conventionalFont.getD (a - fontBase) 0#8 else 0#8

/-- The byte listed for an address, if any. -/
def lookupCell (a : Nat) : List Host.Cell → Option Byte
  | [] => none
  | (b, v) :: rest => if a = b then some v else lookupCell a rest

/-- Lists a byte for an address, keeping the addresses rising. -/
def insertCell (a : Nat) (v : Byte) : List Host.Cell → List Host.Cell
  | [] => [(a, v)]
  | (b, w) :: rest =>
    if a < b then (a, v) :: (b, w) :: rest
    else if a = b then (a, v) :: rest
    else (b, w) :: insertCell a v rest

/-- Takes an address off the list. -/
def eraseCell (a : Nat) : List Host.Cell → List Host.Cell
  | [] => []
  | (b, w) :: rest => if a = b then rest else (b, w) :: eraseCell a rest

/-- Memory with nothing listed. -/
def Memory.blank : Memory := ⟨[]⟩

/-- `mem[a]`. -/
def Memory.read (m : Memory) (a : Nat) : Byte := (lookupCell a m.cells).getD (unlisted a)

/-- `mem[a] <- v`. Writing what the unlisted address reads as takes it off the list. -/
def Memory.write (m : Memory) (a : Nat) (v : Byte) : Memory :=
  if v = unlisted a then ⟨eraseCell a m.cells⟩ else ⟨insertCell a v m.cells⟩

/-- Bytes written at ascending addresses from `a` (used at power-on and by the loader: R37, R252). -/
def Memory.writeBytes (m : Memory) (a : Nat) : List Byte → Memory
  | [] => m
  | v :: vs => Memory.writeBytes (m.write a v) (a + 1) vs

/-- The canonical form: addresses strictly rising, and no entry equal to what its address would read
as if it were not listed. -/
abbrev Memory.wf (m : Memory) : Prop :=
  m.cells.Pairwise (fun c d => c.1 < d.1) ∧ ∀ c ∈ m.cells, c.2 ≠ unlisted c.1

/-- Every listed address lies in an address space of `size` bytes. -/
abbrev Memory.within (m : Memory) (size : Nat) : Prop := ∀ c ∈ m.cells, c.1 < size

end Sys2Proof.Machine
end

