-- ==== Sys2Proof/Machine/State.lean ====
section
/-!
DEFINITION. The machine state (10_state.md), the reasons a step can stop, and the state after power-on.
-/

namespace Sys2Proof.Machine

/-- A timer unit (R30). -/
structure TimerUnit where
  /-- The counter, a natural number (R31). -/
  c : Nat
  /-- True once the unit's periodic task has ended for good. -/
  stopped : Bool
  /-- The value read by a tick that has not yet written back. -/
  latch : Option Nat
deriving DecidableEq, Repr

/-- The fatal conditions, with the spec's own names (R220). -/
inductive FaultReason where
  /-- The word at pc does not lie in memory (R53). -/
  | fetchOutOfBounds
  /-- The word is illegal (R76, R102). -/
  | decodeFault
  /-- DXYN or FX65 reads past the end of memory (R54). -/
  | memReadOutOfBounds
  /-- FX33 or FX55 writes past the end of memory (R55). -/
  | memWriteOutOfBounds
  /-- 2NNN at the depth limit (R106). -/
  | callDepthExceeded
  /-- EX9E or EXA1 with VX above 15 (R180, R181). -/
  | keyOutOfRange
  /-- FX07 with a counter above 255 (R185). -/
  | timerValueOutOfRange
deriving DecidableEq, Repr

/-- The spec's own code of a reason (R220). Not architectural. -/
def FaultReason.code : FaultReason → Nat
  | .fetchOutOfBounds => 1
  | .decodeFault => 2
  | .memReadOutOfBounds => 3
  | .memWriteOutOfBounds => 4
  | .callDepthExceeded => 5
  | .keyOutOfRange => 6
  | .timerValueOutOfRange => 7

/-- The engine status (R32). A fault records its reason, one value and the address of the
instruction that raised it (R220, R221). -/
inductive EngineStatus where
  | running
  | halted
  | faulted (reason : FaultReason) (info : Nat) (addr : Nat)
deriving DecidableEq, Repr

/-- What is outside the machine, as far as it is decided (the model's own, log 6, 8, 9): the coming
turns and the coming host answers, each list with its next element first. Past its end a turn or an
answer is a free value, indexed by a counter. -/
structure Env where
  /-- The agents that make the next moves. -/
  turns : List Agent
  /-- How many moves were made. -/
  moves : Nat
  /-- Answers to the next `KeyHeld` queries (R6). -/
  held : List Bool
  /-- Answers to the next `FirstHeld` queries (R6). -/
  first : List (Option Key)
  /-- Answers to the next `RandomByte` queries (R8). -/
  random : List Byte
  /-- How many host queries were made. -/
  queries : Nat
deriving DecidableEq, Repr

/-- Nothing decided: every turn and every answer is free (log 9). -/
def Env.undecided : Env where
  turns := []
  moves := 0
  held := []
  first := []
  random := []
  queries := 0

/-- The state of the machine (10_state.md, the tuple at its head). -/
structure State where
  /-- V0 to VF (R20). -/
  v : Vector Byte 16
  /-- The index register (R23). -/
  i : Word
  /-- The program counter (R25). -/
  pc : Nat
  /-- The call frame store, newest entry last (R27). -/
  stack : List Nat
  /-- The address space (R37). -/
  mem : Memory
  /-- The display buffer (R29). -/
  disp : Grid
  /-- The delay timer unit (R30). -/
  dt : TimerUnit
  /-- The sound timer unit (R30). -/
  st : TimerUnit
  /-- The engine status (R32). -/
  status : EngineStatus
  /-- A timer set between its two micro-steps (R33). -/
  setInFlight : Option (TimerId × Byte)
  /-- The Present events so far, oldest first (R35). -/
  out : List Grid
  /-- The implementation parameters, fixed for the run (R10; log 1). -/
  cfg : Config
  /-- The decided turns and host answers (log 6, 8). -/
  env : Env
deriving DecidableEq, Repr

/-- Why a step answers `fault`: the agent whose turn it is has no step (log 7). Each is safe: the
spec says the agent never steps again, and any state it could have gone to is left out. -/
inductive Fault where
  /-- Raised by `step` on the Engine's turn after the normal end of the run (R100, R225). Safe. -/
  | engineHalted
  /-- Raised by `step` on the Engine's turn after a fault, which it names (R100, R221). Safe. -/
  | engineFaulted (reason : FaultReason) (info : Nat) (addr : Nat)
  /-- Raised by `step` on the turn of a stopped timer unit with no write pending (R233). Safe. -/
  | timerStopped (t : TimerId)
deriving DecidableEq, Repr

/-- Why a step refuses. -/
inductive Refusal where
  /-- Raised only by an arm of `exec` for an instruction that has no meaning yet; no arm is such a
  one. Safe. -/
  | notModelled (mnemonic : String)
deriving DecidableEq, Repr

/-- The parameters that act at power-on only (R10, R37, R38). -/
structure PowerOn where
  /-- `FONT_GLYPHS`, 80 bytes (R40). -/
  fontGlyphs : List Byte
  /-- `INIT_MEMORY`, as the bytes it lists (R37). -/
  initMemory : Memory
  /-- `INIT_DT` (R30). -/
  initDT : Byte
  /-- `INIT_ST` (R30). -/
  initST : Byte
deriving DecidableEq, Repr

/-- The constraints on the power-on parameters for an address space of `size` bytes. -/
abbrev PowerOn.wf (p : PowerOn) (size : Nat) : Prop :=
  p.fontGlyphs.length = fontSize ∧ p.initMemory.wf ∧ p.initMemory.within size

/-- The values `State.reset` takes: conventional glyphs (log 4), memory 0 elsewhere (log 3), both
timers 0 (log 5). -/
def PowerOn.simulator : PowerOn where
  fontGlyphs := conventionalFont
  initMemory := Memory.blank
  initDT := 0#8
  initST := 0#8

/-- A timer unit as it is created: counting, no tick in progress (R38). -/
def TimerUnit.fresh (c : Byte) : TimerUnit where
  c := c.toNat
  stopped := false
  latch := none

/-- The state at power-on, before the loader runs (R250, R251; steps 1 and 2 of R252), for every value
of the parameters and whatever the environment will do. -/
def State.powerOn (cfg : Config) (p : PowerOn) (env : Env) : State where
  v := Vector.replicate 16 0#8
  i := 0#16
  pc := programBase
  stack := []
  mem := p.initMemory.writeBytes fontBase p.fontGlyphs
  disp := Grid.clear
  dt := TimerUnit.fresh p.initDT
  st := TimerUnit.fresh p.initST
  status := .running
  setInFlight := none
  out := []
  cfg := cfg
  env := env

/-- The machine right after reset (R251), with no program loaded, at the simulators' parameter values
(log 2 to 5, 9). Its memory lists nothing. -/
def State.reset : State := State.powerOn Config.simulator PowerOn.simulator Env.undecided

end Sys2Proof.Machine
end

