-- ==== Sys2Proof/Machine/Operands.lean ====
section
/-!
DEFINITION. Operand forms: registers, the index register with an offset (R201), the glyph address of
FX29 (R204), the register block of FX55 and FX65 (R206, R207) and the digits of FX33 (R205).
-/

namespace Sys2Proof.Machine

/-- `V[r]` (R20). No register is hardwired. -/
def State.V (s : State) (r : RegIdx) : Byte := s.v.get r

/-- `V[r] <- b` (R20). -/
def State.setV (s : State) (r : RegIdx) (b : Byte) : State := { s with v := s.v.set r.val b r.isLt }

/-- The effective address `I + k`, unscaled and never wrapped (R56, R201). -/
def State.effectiveAddr (s : State) (k : Nat) : Nat := s.i.toNat + k

/-- `I <- n`, the low 16 bits of a number; every caller passes at most 0xFFF (R24). -/
def State.setI (s : State) (n : Nat) : State := { s with i := BitVec.ofNat 16 n }

/-- `FONT_BASE + 5 * g`, with no reduction of g (R204). -/
def glyphAddr (g : Byte) : Nat := fontBase + 5 * g.toNat

/-- V0 to VF in order. -/
def allRegs : List RegIdx := [0, 1, 2, 3, 4, 5, 6, 7, 8, 9, 10, 11, 12, 13, 14, 15]

/-- V0 to VX inclusive, in ascending order (R206, R207). -/
def regsUpTo (x : RegIdx) : List RegIdx := allRegs.take (x.val + 1)

/-- The decimal digits of a byte: hundreds, tens, ones (R205). -/
def decimalDigits (b : Byte) : List Byte :=
  [BitVec.ofNat 8 (b.toNat / 100), BitVec.ofNat 8 (b.toNat / 10 % 10), BitVec.ofNat 8 (b.toNat % 10)]

/-- The column of a sprite's origin (R161). -/
def originColumn (b : Byte) : Nat := b.toNat % 64

/-- The row of a sprite's origin (R161). -/
def originRow (b : Byte) : Nat := b.toNat % 32

end Sys2Proof.Machine
end

