-- ==== Sys2Proof/Machine/Flags.lean ====
section
/-!
DEFINITION. The flags written to VF (R21), each computed from the sampled operands (R130), and the
order in which a result and its flag are written (R131).
-/

namespace Sys2Proof.Machine

/-- 8XY4: the exact sum exceeds 255 (R138). -/
def carryOut (a b : Byte) : Bool := decide (255 < a.toNat + b.toNat)

/-- 8XY5 and 8XY7: the exact difference is strictly positive, not the usual borrow (R139, R141). -/
def differencePositive (a b : Byte) : Bool := decide (0 < (a.toNat : Int) - (b.toNat : Int))

/-- 8XY6: bit 0 before the shift (R140). -/
def shiftedOutRight (a : Byte) : Bool := a.getLsbD 0

/-- 8XYE: bit 7 before the shift (R142). -/
def shiftedOutLeft (a : Byte) : Bool := a.getLsbD 7

/-- FX1E: the exact sum exceeds the 12-bit range (R202). -/
def indexOverflow (i : Word) (b : Byte) : Bool := decide (0xFFF < i.toNat + b.toNat)

/-- `WriteResultAndFlag` (R131): both writes, in the order `FLAG_ORDER` gives. The order matters only
when the destination is VF. -/
def State.writeResultAndFlag (s : State) (x : RegIdx) (r : Byte) (f : Bool) : State :=
  match s.cfg.flagOrder with
  | .flagLast => (s.setV x r).setV vF (flagByte f)
  | .resultLast => (s.setV vF (flagByte f)).setV x r

end Sys2Proof.Machine
end

