-- ==== Sys2Proof/Machine/Ops.lean ====
section
/-!
DEFINITION. The named operations the instruction meanings share: moving pc, the call frame store,
memory with its bounds, raising a fault and halting, host queries, Present, and the atomic counter
operations of the timers.
-/

namespace Sys2Proof.Machine

/-! ### Program counter -/

/-- `pc <- target`, neither masked nor wrapped nor checked (R25, R109). -/
def State.goto (s : State) (target : Nat) : State := { s with pc := target }

/-- `advance()`: one instruction width, 2 bytes (R70, R101). -/
def State.advance (s : State) : State := s.goto (s.pc + 2)

/-- `rewind()` of FX0A: back one instruction width (R182). -/
def State.rewind (s : State) : State := s.goto (s.pc - 2)

/-- A skip when the condition holds: one more instruction width (R110). -/
def State.skipIf (s : State) (c : Bool) : State := s.goto (if c then s.pc + 2 else s.pc)

/-- The address `a` of the executing instruction: while it executes pc holds a + 2 (R25; log 11). -/
def State.instrAddr (s : State) : Nat := s.pc - 2

/-! ### Faults and halt -/

/-- `raise Fault(reason, info)` at address `a`: the status records it and every effect made so far
stands (R221). The machine has no trap: nothing is saved and there is no return (R228). -/
def State.raise (s : State) (reason : FaultReason) (info a : Nat) : State :=
  { s with status := .faulted reason info a }

/-- `halt` (R225). -/
def State.halt (s : State) : State := { s with status := .halted }

/-! ### Call frame store -/

/-- Whether a call would exceed `MAX_CALL_DEPTH` (R106). -/
def State.stackFull (s : State) : Bool := s.cfg.maxCallDepth == some s.stack.length

/-- `Push(a)`: appends the newest entry (R27). -/
def State.push (s : State) (a : Nat) : State := { s with stack := s.stack ++ [a] }

/-- The newest entry, if any (R27). -/
def State.top (s : State) : Option Nat := s.stack.getLast?

/-- `Pop()`'s removal of the newest entry (R27). -/
def State.dropTop (s : State) : State := { s with stack := s.stack.dropLast }

/-! ### Memory -/

/-- `mem[a]` where the bounds have been checked. -/
def State.readByte (s : State) (a : Nat) : Byte := s.mem.read a

/-- `mem[a] <- b` where the bounds have been checked. -/
def State.writeByte (s : State) (a : Nat) (b : Byte) : State := { s with mem := s.mem.write a b }

/-- The address lies in the address space (R50). -/
def State.inBounds (s : State) (a : Nat) : Bool := decide (a < s.cfg.memSize)

/-- `Fetch(pc)`: the big-endian word at pc if both bytes lie in memory (R53). -/
def State.fetch (s : State) : Option Word :=
  if s.inBounds (s.pc + 1) then some (wordOfBytes (s.readByte s.pc) (s.readByte (s.pc + 1))) else none

/-- `MemRead(a, n)`: n bytes in ascending order, or the first address out of bounds (R54). -/
def State.readBytes (s : State) (a : Nat) : Nat → Except Nat (List Byte)
  | 0 => .ok []
  | n + 1 =>
    if s.inBounds a then
      match s.readBytes (a + 1) n with
      | .ok bs => .ok (s.readByte a :: bs)
      | .error e => .error e
    else .error a

/-- `MemWrite` of bytes one at a time in ascending order. The first address out of bounds faults, and
the bytes below it stay written (R55). -/
def State.storeBytes (s : State) (a : Nat) : List Byte → State
  | [] => s
  | b :: bs =>
    if s.inBounds a then (s.writeByte a b).storeBytes (a + 1) bs
    else s.raise .memWriteOutOfBounds a s.instrAddr

/-- `V[r] <- MemRead` for each register of a list, at ascending addresses. The first address out of
bounds faults, and the registers below it stay loaded (R207, R221). -/
def State.loadBlock (s : State) (a : Nat) : List RegIdx → State
  | [] => s
  | r :: rs =>
    if s.inBounds a then (s.setV r (s.readByte a)).loadBlock (a + 1) rs
    else s.raise .memReadOutOfBounds a s.instrAddr

/-! ### Display -/

/-- The grid replaced. -/
def State.setDisp (s : State) (g : Grid) : State := { s with disp := g }

/-- `Present(disp)`: the event is appended with a copy of the grid (R164). -/
def State.present (s : State) : State := { s with out := s.out ++ [s.disp] }

/-! ### Host queries

Each query takes the next decided answer, or a free one, and counts (R6, R8; log 8). -/

/-- The answer to `KeyHeld(k)` asked now. -/
def State.heldAnswer (s : State) (k : Key) : Bool := s.env.held.headD (Config.freeHeld s.env.queries k)

/-- The state after a `KeyHeld` query. -/
def State.afterHeld (s : State) : State :=
  { s with env := { s.env with held := s.env.held.tail, queries := s.env.queries + 1 } }

/-- The answer to `FirstHeld()` asked now. -/
def State.firstAnswer (s : State) : Option Key := s.env.first.headD (Config.freeFirst s.env.queries)

/-- The state after a `FirstHeld` query. -/
def State.afterFirst (s : State) : State :=
  { s with env := { s.env with first := s.env.first.tail, queries := s.env.queries + 1 } }

/-- The answer to `RandomByte()` asked now. -/
def State.randomAnswer (s : State) : Byte := s.env.random.headD (Config.freeRandom s.env.queries)

/-- The state after a `RandomByte` query. -/
def State.afterRandom (s : State) : State :=
  { s with env := { s.env with random := s.env.random.tail, queries := s.env.queries + 1 } }

/-! ### Timers -/

/-- `timer[t]` (R30). -/
def State.timer (s : State) (t : TimerId) : TimerUnit :=
  match t with
  | .dt => s.dt
  | .st => s.st

/-- `timer[t] <- u`. -/
def State.setTimer (s : State) (t : TimerId) (u : TimerUnit) : State :=
  match t with
  | .dt => { s with dt := u }
  | .st => { s with st := u }

/-- `TimerLoad(t)` (R230). -/
def State.timerLoad (s : State) (t : TimerId) : Nat := (s.timer t).c

/-- `TimerReset(t)` (R231). -/
def State.timerReset (s : State) (t : TimerId) : State := s.setTimer t { s.timer t with c := 0 }

/-- `TimerAdd(t, n)`, with no saturation and no width limit (R232). -/
def State.timerAdd (s : State) (t : TimerId) (n : Nat) : State :=
  s.setTimer t { s.timer t with c := (s.timer t).c + n }

/-- The first micro-step of a timer set: the reset, with the value in flight (R234). -/
def State.beginTimerSet (s : State) (t : TimerId) (b : Byte) : State :=
  { s.timerReset t with setInFlight := some (t, b) }

/-- The second micro-step of a timer set: the add, with nothing left in flight (R234). -/
def State.endTimerSet (s : State) (t : TimerId) (b : Byte) : State :=
  { s.timerAdd t b.toNat with setInFlight := none }

/-- The decrement of a tick: one down, holding at zero (R233). -/
def tickDown (n : Nat) : Nat := n - 1

/-- A unit's next micro-step, if it has one (R233): the write of a tick in progress; else, unless it
is stopped, the read, which stops the unit at the terminal value. A fused tick does both at once. -/
def TimerUnit.tick (u : TimerUnit) (cfg : Config) : Option TimerUnit :=
  match u.latch with
  | some r => some { u with c := tickDown r, latch := none }
  | none =>
    if u.stopped then none
    else if cfg.timerTerminal ≤ u.c then some { u with stopped := true }
    else if cfg.tickAtomic then some { u with c := tickDown u.c }
    else some { u with latch := some u.c }

/-! ### Turns -/

/-- The agent that moves now (log 6). -/
def State.turn (s : State) : Agent := s.env.turns.headD (Config.freeTurn s.env.moves)

/-- The state once the turn is taken. -/
def State.afterTurn (s : State) : State :=
  { s with env := { s.env with turns := s.env.turns.tail, moves := s.env.moves + 1 } }

/-! ### Program load -/

/-- The loader: copies the program from `PROGRAM_BASE`, or refuses one that does not fit (R252, R253).
-/
def State.loadProgram (s : State) (program : List Byte) : Option State :=
  if program.length ≤ s.cfg.memSize - programBase then
    some { s with mem := s.mem.writeBytes programBase program }
  else none

end Sys2Proof.Machine
end

