-- ==== Sys2Proof/Machine/Alu.lean ====
section
/-!
DEFINITION. Register loads, the 8XYN family and the random byte (41_register_alu.md). Operands are
sampled before any write (R130); results are exact and then narrowed (R11).
-/

namespace Sys2Proof.Machine

/-- 6XNN (R132). -/
def execLdByte (x : RegIdx) (nn : Byte) (s : State) : Host.Outcome State Fault Refusal :=
  .next (s.setV x nn)

/-- 7XNN: wraps, and VF is no flag of it (R133). -/
def execAddByte (x : RegIdx) (nn : Byte) (s : State) : Host.Outcome State Fault Refusal :=
  .next (s.setV x (BitVec.ofNat 8 ((s.V x).toNat + nn.toNat)))

/-- 8XY0 (R134). -/
def execLdReg (x y : RegIdx) (s : State) : Host.Outcome State Fault Refusal := .next (s.setV x (s.V y))

/-- 8XY1 (R135). -/
def execOrReg (x y : RegIdx) (s : State) : Host.Outcome State Fault Refusal :=
  .next (s.setV x (s.V x ||| s.V y))

/-- 8XY2 (R136). -/
def execAndReg (x y : RegIdx) (s : State) : Host.Outcome State Fault Refusal :=
  .next (s.setV x (s.V x &&& s.V y))

/-- 8XY3 (R137). -/
def execXorReg (x y : RegIdx) (s : State) : Host.Outcome State Fault Refusal :=
  .next (s.setV x (s.V x ^^^ s.V y))

/-- 8XY4 (R138). -/
def execAddReg (x y : RegIdx) (s : State) : Host.Outcome State Fault Refusal :=
  .next (s.writeResultAndFlag x (BitVec.ofNat 8 ((s.V x).toNat + (s.V y).toNat)) (carryOut (s.V x) (s.V y)))

/-- 8XY5: VX minus VY (R139). -/
def execSubReg (x y : RegIdx) (s : State) : Host.Outcome State Fault Refusal :=
  .next (s.writeResultAndFlag x (BitVec.ofInt 8 ((s.V x).toNat - (s.V y).toNat))
    (differencePositive (s.V x) (s.V y)))

/-- 8XY6: VX only; VY is neither read nor written (R140). -/
def execShr (x _y : RegIdx) (s : State) : Host.Outcome State Fault Refusal :=
  .next (s.writeResultAndFlag x (s.V x >>> 1) (shiftedOutRight (s.V x)))

/-- 8XY7: VY minus VX (R141). -/
def execSubnReg (x y : RegIdx) (s : State) : Host.Outcome State Fault Refusal :=
  .next (s.writeResultAndFlag x (BitVec.ofInt 8 ((s.V y).toNat - (s.V x).toNat))
    (differencePositive (s.V y) (s.V x)))

/-- 8XYE: VX only; VY is neither read nor written (R142). -/
def execShl (x _y : RegIdx) (s : State) : Host.Outcome State Fault Refusal :=
  .next (s.writeResultAndFlag x (s.V x <<< 1) (shiftedOutLeft (s.V x)))

/-- CXNN: one query, whatever NN is (R143). -/
def execRnd (x : RegIdx) (nn : Byte) (s : State) : Host.Outcome State Fault Refusal :=
  .next (s.afterRandom.setV x (s.randomAnswer &&& nn))

end Sys2Proof.Machine
end

