-- ==== Sys2Proof/Machine/ControlFlow.lean ====
section
/-!
DEFINITION. Control transfer and skips (40_control_flow.md). On entry pc is a + 2, where a is the
instruction's address (R101).
-/

namespace Sys2Proof.Machine

/-- 00EE: pop into pc, or halt when the store is empty (R104). -/
def execRet (s : State) : Host.Outcome State Fault Refusal :=
  match s.top with
  | none => .next s.halt
  | some a => .next (s.dropTop.goto a)

/-- 1NNN (R105). -/
def execJp (nnn : Nat) (s : State) : Host.Outcome State Fault Refusal := .next (s.goto nnn)

/-- 2NNN: the depth is checked before the push (R106, R226). -/
def execCall (nnn : Nat) (s : State) : Host.Outcome State Fault Refusal :=
  if s.stackFull then .next (s.raise .callDepthExceeded s.instrAddr s.instrAddr)
  else .next ((s.push s.pc).goto nnn)

/-- BNNN: NNN + V0, always V0, unmasked (R107). -/
def execJpV0 (nnn : Nat) (s : State) : Host.Outcome State Fault Refusal :=
  .next (s.goto (nnn + (s.V 0).toNat))

/-- 3XNN (R112). -/
def execSeByte (x : RegIdx) (nn : Byte) (s : State) : Host.Outcome State Fault Refusal :=
  .next (s.skipIf (s.V x == nn))

/-- 4XNN (R113). -/
def execSneByte (x : RegIdx) (nn : Byte) (s : State) : Host.Outcome State Fault Refusal :=
  .next (s.skipIf (s.V x != nn))

/-- 5XY0 (R114). -/
def execSeReg (x y : RegIdx) (s : State) : Host.Outcome State Fault Refusal :=
  .next (s.skipIf (s.V x == s.V y))

/-- 9XY0 (R115). -/
def execSneReg (x y : RegIdx) (s : State) : Host.Outcome State Fault Refusal :=
  .next (s.skipIf (s.V x != s.V y))

end Sys2Proof.Machine
end

