-- ==== Sys2Proof/Machine/Draw.lean ====
section
/-!
DEFINITION. The two display instructions (42_display.md).
-/

namespace Sys2Proof.Machine

/-- 00E0: every pixel unset; no Present (R160). -/
def execCls (s : State) : Host.Outcome State Fault Refusal := .next (s.setDisp Grid.clear)

/-- The effect of DXYN once its row bytes are read: plot, write VF, present (R161, R164). The origin
comes from the registers as they were before VF is written. -/
def State.drawRows (s : State) (x y : RegIdx) (rows : List Byte) : State :=
  let p := plotRows (s.disp, false) (originRow (s.V y)) (originColumn (s.V x)) rows
  ((s.setDisp p.1).setV vF (flagByte p.2)).present

/-- DXYN: all row bytes are read first; the first out of bounds faults before anything is plotted
(R161). -/
def execDrw (x y : RegIdx) (n : Nat) (s : State) : Host.Outcome State Fault Refusal :=
  match s.readBytes (s.effectiveAddr 0) n with
  | .error a => .next (s.raise .memReadOutOfBounds a s.instrAddr)
  | .ok rows => .next (s.drawRows x y rows)

end Sys2Proof.Machine
end

