-- ==== Sys2Proof/Machine/IndexMemory.lean ====
section
/-!
DEFINITION. The index register and memory transfers (44_index_memory.md). None of the transfers
changes I (R201).
-/

namespace Sys2Proof.Machine

/-- ANNN (R200). -/
def execLdI (nnn : Nat) (s : State) : Host.Outcome State Fault Refusal := .next (s.setI nnn)

/-- FX1E: the 12-bit sum, and VF from the exact one; VF is written last and VX sampled first (R202). -/
def execAddI (x : RegIdx) (s : State) : Host.Outcome State Fault Refusal :=
  .next ((s.setI ((s.i.toNat + (s.V x).toNat) % 0x1000)).setV vF (flagByte (indexOverflow s.i (s.V x))))

/-- FX29 (R204). -/
def execLdF (x : RegIdx) (s : State) : Host.Outcome State Fault Refusal :=
  .next (s.setI (glyphAddr (s.V x)))

/-- FX33 (R205). -/
def execLdB (x : RegIdx) (s : State) : Host.Outcome State Fault Refusal :=
  .next (s.storeBytes (s.effectiveAddr 0) (decimalDigits (s.V x)))

/-- FX55 (R206). -/
def execStoreRegs (x : RegIdx) (s : State) : Host.Outcome State Fault Refusal :=
  .next (s.storeBytes (s.effectiveAddr 0) ((regsUpTo x).map s.V))

/-- FX65 (R207). -/
def execLoadRegs (x : RegIdx) (s : State) : Host.Outcome State Fault Refusal :=
  .next (s.loadBlock (s.effectiveAddr 0) (regsUpTo x))

end Sys2Proof.Machine
end

