-- ==== Sys2Proof/Machine/KeysTimers.lean ====
section
/-!
DEFINITION. Keyboard and timer instructions (43_keys_timers.md).
-/

namespace Sys2Proof.Machine

/-- EX9E: the key number is checked before the query (R180, R226). -/
def execSkp (x : RegIdx) (s : State) : Host.Outcome State Fault Refusal :=
  if h : (s.V x).toNat < 16 then .next (s.afterHeld.skipIf (s.heldAnswer ⟨(s.V x).toNat, h⟩))
  else .next (s.raise .keyOutOfRange (s.V x).toNat s.instrAddr)

/-- EXA1 (R181). -/
def execSknp (x : RegIdx) (s : State) : Host.Outcome State Fault Refusal :=
  if h : (s.V x).toNat < 16 then .next (s.afterHeld.skipIf (!s.heldAnswer ⟨(s.V x).toNat, h⟩))
  else .next (s.raise .keyOutOfRange (s.V x).toNat s.instrAddr)

/-- What FX0A does with the host's answer: with no key held pc goes back to the instruction, else VX
gets the key's number (R182). -/
def State.takeKey (s : State) (x : RegIdx) (answer : Option Key) : State :=
  match answer with
  | none => s.rewind
  | some k => s.setV x (BitVec.ofNat 8 k.val)

/-- FX0A: one query, then its answer (R182). -/
def execLdVxK (x : RegIdx) (s : State) : Host.Outcome State Fault Refusal :=
  .next (s.afterFirst.takeKey x s.firstAnswer)

/-- FX15, its first micro-step; the Engine's next step is the second (R183, R234). -/
def execLdDTVx (x : RegIdx) (s : State) : Host.Outcome State Fault Refusal :=
  .next (s.beginTimerSet .dt (s.V x))

/-- FX18, its first micro-step; the Engine's next step is the second (R184, R234). -/
def execLdSTVx (x : RegIdx) (s : State) : Host.Outcome State Fault Refusal :=
  .next (s.beginTimerSet .st (s.V x))

/-- FX07: one atomic load, then the check (R185, R226). -/
def execLdVxDT (x : RegIdx) (s : State) : Host.Outcome State Fault Refusal :=
  if s.timerLoad .dt ≤ 255 then .next (s.setV x (BitVec.ofNat 8 (s.timerLoad .dt)))
  else .next (s.raise .timerValueOutOfRange (s.timerLoad .dt) s.instrAddr)

end Sys2Proof.Machine
end

