-- ==== Sys2Proof/Machine/Cycle.lean ====
section
/-!
DEFINITION. The micro-steps of the agents: the Engine's cycle (R100 to R102), the second micro-step of
a timer set (R234), and the ticks (R233).
-/

namespace Sys2Proof.Machine

/-- `EngineStep()`: fetch, advance, decode, execute, in that order of checks (R101, R102, R226). -/
def engineCycle (s : State) : Host.Outcome State Fault Refusal :=
  match s.fetch with
  | none => .next (s.raise .fetchOutOfBounds s.pc s.pc)
  | some w =>
    match decodeWord w with
    | .instr i => exec i s.advance
    | .illegal _ => .next (s.advance.raise .decodeFault w.toNat s.pc)

/-- The Engine's turn (R100): a cycle while Running with nothing in flight, the add while a timer set
is in flight, and no step once Halted or Faulted. -/
def engineTurn (s : State) : Host.Outcome State Fault Refusal :=
  match s.status with
  | .halted => .fault .engineHalted
  | .faulted reason info a => .fault (.engineFaulted reason info a)
  | .running =>
    match s.setInFlight with
    | some (t, b) => .next (s.endTimerSet t b)
    | none => engineCycle s

/-- A timer agent's turn (R233), whatever the Engine's status (R239). -/
def timerTurn (t : TimerId) (s : State) : Host.Outcome State Fault Refusal :=
  match (s.timer t).tick s.cfg with
  | some u => .next (s.setTimer t u)
  | none => .fault (.timerStopped t)

/-- The turn of an agent. -/
def agentTurn (a : Agent) (s : State) : Host.Outcome State Fault Refusal :=
  match a with
  | .engine => engineTurn s
  | .timer t => timerTurn t s

/-- The state with the word in memory at pc, the Engine running with nothing in flight, and its turn
next: what it takes for the next step to fetch that word (log 13). -/
def State.placeWord (s : State) (w : Word) : State :=
  { s with
    mem := (s.mem.write s.pc (hiByte w)).write (s.pc + 1) (loByte w)
    status := .running
    setInFlight := none
    env := { s.env with turns := .engine :: s.env.turns } }

end Sys2Proof.Machine
end

