-- ==== Sys2Proof/Machine/Step.lean ====
section
/-!
DEFINITION. One step of the machine: one micro-step of the agent whose turn it is (R64, R103, R234).
-/

namespace Sys2Proof.Machine

/-- One step: the turn is taken, then its agent moves. -/
def step (s : State) : Host.Outcome State Fault Refusal := agentTurn s.turn s.afterTurn

/-- The state in which the very next step fetches and runs the word `w`, stored big-endian at pc
(R52; log 13). Every instruction is one word, so `nbits` is 16 and only clears what lies above it. -/
def State.withFetchWord (s : State) (nbits w : Nat) : State :=
  s.placeWord (BitVec.ofNat 16 (w % 2 ^ nbits))

end Sys2Proof.Machine
end

