-- ==== Sys2Proof/Safety.lean ====
section
/-!
DEFINITION. What counts as a good run, in the terms the claims use: which agents have a step, the end
of a run, the invariant of the machine, and the fairness a liveness claim must assume.
-/

namespace Sys2Proof.Machine

/-- The agent has an enabled step: the Engine while Running (R100), a timer unit while it is not
stopped or has a write pending (R233). -/
def State.enabled (s : State) : Agent → Bool
  | .engine => s.status == .running
  | .timer t => (s.timer t).latch.isSome || !(s.timer t).stopped

/-- A good end of a run: status Halted (R245). -/
def State.endedWell (s : State) : Prop := s.status = .halted

/-- A bad end: status Faulted, which refutes every observation (R221, R245). -/
def State.endedBadly (s : State) : Prop := ∃ reason info a, s.status = .faulted reason info a

/-- `t` is reached from `s` in `k` steps, each answering a next state. -/
def Reaches (s : State) : Nat → State → Prop
  | 0, t => t = s
  | k + 1, t => ∃ u, Reaches s k u ∧ step u = .next t

/-- What is observed of a run that ended well: registers, I, pc, memory, display buffer and Present events
at the halt (R245). The timer values are left out: ticks go on, so nothing fixes them (R239). -/
structure Observed where
  v : Vector Byte 16
  i : Word
  pc : Nat
  mem : Memory
  disp : Grid
  out : List Grid
deriving DecidableEq, Repr

/-- The part of a state that is observed if the run has ended well in it (R245). -/
def State.observed (s : State) : Observed where
  v := s.v
  i := s.i
  pc := s.pc
  mem := s.mem
  disp := s.disp
  out := s.out

/-- The run from `s` ends well, and `o` is its observed final state (R245). -/
def EndsWellWith (s : State) (o : Observed) : Prop :=
  ∃ k t, Reaches s k t ∧ t.endedWell ∧ t.observed = o

/-- The run from `s` ends in a fault (R245). -/
def EndsBadly (s : State) : Prop := ∃ k t, Reaches s k t ∧ t.endedBadly

/-- The run from `s` is a hang: it goes on for ever and the Engine never stops (R245; log 31). Ticks that
go on after the end make no hang. -/
def Hangs (s : State) : Prop := ∀ k, ∃ t, Reaches s k t ∧ t.status = .running

/-- The run from `s` is cut short while the Engine runs, by a turn given to a stopped timer unit, which has
no step (log 7, 31). No fair schedule of the spec does so. -/
def CutShort (s : State) : Prop :=
  ∃ k t u, Reaches s k t ∧ t.status = .running ∧ step t = .fault (.timerStopped u)

/-- What holds of a timer unit at every step: a stopped unit has no tick in progress, and neither has
any unit when ticks are fused (R30, R233). -/
structure TimerUnit.Inv (u : TimerUnit) (cfg : Config) : Prop where
  stopped_idle : u.stopped = true → u.latch = none
  fused_idle : cfg.tickAtomic = true → u.latch = none

/-- The invariant of the machine. -/
structure State.Inv (s : State) : Prop where
  /-- The parameters meet their constraints (R10). -/
  config : s.cfg.wf = true
  /-- Memory is in canonical form. -/
  mem_wf : s.mem.wf
  /-- Memory lists nothing outside the address space (R50). -/
  mem_within : s.mem.within s.cfg.memSize
  /-- I fits 12 bits at every instruction boundary (R24). -/
  index : s.i.toNat ≤ 0xFFF
  /-- The call depth limit is kept (R106, R265). -/
  depth : ∀ d, s.cfg.maxCallDepth = some d → s.stack.length ≤ d
  /-- The delay timer unit is sound. -/
  delay : s.dt.Inv s.cfg
  /-- The sound timer unit is sound. -/
  sound : s.st.Inv s.cfg
  /-- A timer set is in flight only while the Engine runs (R33, R100). -/
  in_flight : s.setInFlight ≠ none → s.status = .running

/-! ### Frames

What a step leaves unchanged, one predicate per part of the state; memory is compared through the read
of one byte. -/

/-- Every register but those listed reads as before. -/
def SameRegsBut (rs : List RegIdx) (s t : State) : Prop := ∀ r, r ∉ rs → t.V r = s.V r

/-- Every byte of memory reads as before. -/
def SameMemory (s t : State) : Prop := ∀ a, t.mem.read a = s.mem.read a

/-- Every byte outside the `n` bytes from `lo` reads as before. -/
def SameMemoryOutside (lo n : Nat) (s t : State) : Prop :=
  ∀ a, a < lo ∨ lo + n ≤ a → t.mem.read a = s.mem.read a

/-- The display buffer and the Present events are unchanged. -/
def SameDisplay (s t : State) : Prop := t.disp = s.disp ∧ t.out = s.out

/-- Both timer units are unchanged. -/
def SameTimers (s t : State) : Prop := t.dt = s.dt ∧ t.st = s.st

/-- The engine status and the timer set in flight are unchanged. -/
def SameEngine (s t : State) : Prop := t.status = s.status ∧ t.setInFlight = s.setInFlight

/-- The parameters and what is decided outside the machine are unchanged. -/
def SameOutside (s t : State) : Prop := t.cfg = s.cfg ∧ t.env = s.env

/-- Only the listed registers may differ. -/
def OnlyRegs (rs : List RegIdx) (s t : State) : Prop :=
  SameRegsBut rs s t ∧ t.i = s.i ∧ t.pc = s.pc ∧ t.stack = s.stack ∧ SameMemory s t ∧
    SameDisplay s t ∧ SameTimers s t ∧ SameEngine s t ∧ SameOutside s t

/-- Only pc may differ. -/
def OnlyPc (s t : State) : Prop :=
  SameRegsBut [] s t ∧ t.i = s.i ∧ t.stack = s.stack ∧ SameMemory s t ∧ SameDisplay s t ∧
    SameTimers s t ∧ SameEngine s t ∧ SameOutside s t

/-- Only pc and the call frame store may differ. -/
def OnlyPcAndStack (s t : State) : Prop :=
  SameRegsBut [] s t ∧ t.i = s.i ∧ SameMemory s t ∧ SameDisplay s t ∧ SameTimers s t ∧
    SameEngine s t ∧ SameOutside s t

/-- Only the index register and the listed registers may differ. -/
def OnlyIndexAndRegs (rs : List RegIdx) (s t : State) : Prop :=
  SameRegsBut rs s t ∧ t.pc = s.pc ∧ t.stack = s.stack ∧ SameMemory s t ∧ SameDisplay s t ∧
    SameTimers s t ∧ SameEngine s t ∧ SameOutside s t

/-- Only the `n` bytes of memory from `lo` may differ. -/
def OnlyMemory (lo n : Nat) (s t : State) : Prop :=
  SameRegsBut [] s t ∧ t.i = s.i ∧ t.pc = s.pc ∧ t.stack = s.stack ∧ SameMemoryOutside lo n s t ∧
    SameDisplay s t ∧ SameTimers s t ∧ SameEngine s t ∧ SameOutside s t

/-- Everything but the status and the listed registers and bytes is unchanged: what a faulting
instruction may have touched (R221). -/
def FaultFrame (rs : List RegIdx) (lo n : Nat) (s t : State) : Prop :=
  SameRegsBut rs s t ∧ t.i = s.i ∧ t.pc = s.pc ∧ t.stack = s.stack ∧ SameMemoryOutside lo n s t ∧
    SameDisplay s t ∧ SameTimers s t ∧ t.setInFlight = s.setInFlight ∧ SameOutside s t

/-- No host query was made. -/
def SameQueries (s t : State) : Prop :=
  t.env.held = s.env.held ∧ t.env.first = s.env.first ∧ t.env.random = s.env.random ∧
    t.env.queries = s.env.queries

/-- The part of the state one timer unit does not own, but for the turn taken and what is in flight. -/
def SameButTimer (u : TimerId) (s t : State) : Prop :=
  (∀ u', u' ≠ u → t.timer u' = s.timer u') ∧ t.v = s.v ∧ t.i = s.i ∧ t.pc = s.pc ∧ t.stack = s.stack ∧
    t.mem = s.mem ∧ SameDisplay s t ∧ t.status = s.status ∧ t.cfg = s.cfg ∧ SameQueries s t

/-- VX and VF after an instruction that writes a result `r` to VX and a flag `f` to VF: both when VX is
not VF, and the one `FLAG_ORDER` writes last when it is (R131). Nothing else changes. -/
def ResultAndFlag (x : RegIdx) (r f : Nat) (s t : State) : Prop :=
  (x ≠ vF → (t.V x).toNat = r ∧ (t.V vF).toNat = f) ∧
  (x = vF → (t.V vF).toNat = if s.cfg.flagOrder = .flagLast then f else r) ∧
  OnlyRegs [x, vF] s t

/-! ### What an instruction may change (R21, R28, R51, R208) -/

/-- The registers an instruction may write: its destination, and VF where it is a flag (R20, R21). -/
def regsWritten : Instr → List RegIdx
  | .cls | .ret | .jp _ | .call _ | .seByte _ _ | .sneByte _ _ | .seReg _ _ | .sneReg _ _ => []
  | .ldI _ | .jpV0 _ | .skp _ | .sknp _ | .ldDTVx _ | .ldSTVx _ | .ldF _ | .ldB _ | .storeRegs _ => []
  | .ldByte x _ | .addByte x _ | .rnd x _ | .ldVxDT x | .ldVxK x => [x]
  | .ldReg x _ | .orReg x _ | .andReg x _ | .xorReg x _ => [x]
  | .addReg x _ | .subReg x _ | .shr x _ | .subnReg x _ | .shl x _ => [x, vF]
  | .drw _ _ _ | .addI _ => [vF]
  | .loadRegs x => regsUpTo x

/-- The instruction that sets a timer unit from VX (R183, R184). -/
def timerSetInstr (u : TimerId) (x : RegIdx) : Instr :=
  match u with
  | .dt => .ldDTVx x
  | .st => .ldSTVx x

/-- The pixel of a sprite at a row and column of the grid, for the origin (VX mod 64, VY mod 32), the
height n and the bytes from I: bit 7 of a byte is its leftmost pixel (R161; D24, log 14). -/
def State.spritePixel (s : State) (x y : RegIdx) (n : Nat) (r : Fin 32) (c : Fin 64) : Bool :=
  decide ((s.V y).toNat % 32 ≤ r.val ∧ r.val < (s.V y).toNat % 32 + n ∧
    (s.V x).toNat % 64 ≤ c.val ∧ c.val < (s.V x).toNat % 64 + 8) &&
  (s.mem.read (s.i.toNat + (r.val - (s.V y).toNat % 32))).getLsbD (7 - (c.val - (s.V x).toNat % 64))

/-- The byte at an address once these bytes are stored from I (R66). -/
def State.byteAfterStore (s : State) (bytes : List Byte) (a : Nat) : Byte :=
  if s.effectiveAddr 0 ≤ a ∧ a < s.effectiveAddr bytes.length then bytes.getD (a - s.effectiveAddr 0) 0#8
  else s.mem.read a

/-- The fetch in `t` reads the word at pc of `s` as it stands once these bytes are stored from I (R66). -/
def FetchesAfterStore (bytes : List Byte) (s t : State) : Prop :=
  t.fetch = some (wordOfBytes (s.byteAfterStore bytes s.pc) (s.byteAfterStore bytes (s.pc + 1)))

/-- No tick of the unit that read an older, larger value is still to write back (R236). -/
def Settled (u : TimerId) (s : State) : Prop := ∀ n, (s.timer u).latch = some n → n ≤ (s.timer u).c

/-- The state with these turns decided before the ones already decided. -/
def State.withTurns (s : State) (turns : List Agent) : State :=
  { s with env := { s.env with turns := turns ++ s.env.turns } }

/-- An endless sequence of steps, for fairness to speak of. It need be no hang: the ticks of a stopped
machine make one too (`Hangs`). -/
def IsRun (run : Nat → State) : Prop := ∀ n, step (run n) = .next (run (n + 1))

/-- Weak fairness (R237): an agent that has an enabled step from some point on moves again after every
point. No claim may assume a ratio between the agents. -/
def WeaklyFair (run : Nat → State) : Prop :=
  ∀ a n, (∀ m, n ≤ m → (run m).enabled a = true) → ∃ m, n ≤ m ∧ (run m).turn = a

end Sys2Proof.Machine
end

