-- ==== Sys2Proof/Certificates/Slice0/Obligations.lean ====
section
/-!
DEFINITION. The statements for the provers. In a statement about `exec`, the state s is the one in which
the instruction's meaning runs: its pc already holds a + 2 (R101), a being the instruction's address.
-/

open Sys2Proof Sys2Proof.Machine

/-! ### Encoding (30_encoding.md) -/

/-- Decoding the encoding of a well-formed instruction gives it back, every operand at every value its
field admits (R71, R73, R75). -/
def Obligations.DecodeOfEncodeIsIdentity : Prop :=
  ∀ i : Instr, i.wf = true → decodeWord (encode i) = .instr i

/-- Every word that decodes is the encoding of what it decodes to, which is well formed: no bit of a
legal word is dropped, the ignored Y of the shifts included (R71, R73). -/
def Obligations.EncodeOfDecodeIsIdentity : Prop :=
  ∀ (w : Word) (i : Instr), decodeWord w = .instr i → i.wf = true ∧ encode i = w

/-- A word matches exactly one row of spec/opcode_table.json, its instruction's, when it decodes, and no
row when it is illegal (R75, R76; the illegal set is the spec's decision D11, log 16). -/
def Obligations.LegalWordsMatchExactlyOneRow : Prop :=
  ∀ w : Word, opcodeTable.filter (rowMatches w) =
    match decodeWord w with
    | .instr i => [i.row]
    | .illegal _ => []

/-- Words of families 0, 1, 3, 8, 9, D, E and F written out from the formats of R73, and two illegal words.
That 0x5121 and 0x0123 are illegal is the spec's decision D11 (log 16). -/
def Obligations.SpecWordsDecode : Prop :=
  decodeWord 0x00E0 = .instr .cls ∧ decodeWord 0x00EE = .instr .ret ∧
  decodeWord 0x1234 = .instr (.jp 0x234) ∧ decodeWord 0x3342 = .instr (.seByte 3 0x42) ∧
  decodeWord 0x9120 = .instr (.sneReg 1 2) ∧ decodeWord 0x8124 = .instr (.addReg 1 2) ∧
  decodeWord 0xD015 = .instr (.drw 0 1 5) ∧ decodeWord 0xE2A1 = .instr (.sknp 2) ∧
  decodeWord 0xF533 = .instr (.ldB 5) ∧ decodeWord 0x5121 = .illegal .family5 ∧
  decodeWord 0x0123 = .illegal .family0

/-- An instruction laid out in memory order, high byte first, decodes to itself and leaves the bytes
after it (R52, R70). -/
def Obligations.BytesOfAnInstructionDecode : Prop :=
  ∀ (i : Instr) (rest : List Byte), i.wf = true → decodeBytes (encodeBytes i ++ rest) = .instr i rest

/-! ### The engine cycle (40_control_flow.md section 1, 20_memory.md) -/

/-- Fetch reads the big-endian word at pc when both bytes lie in memory, and nothing otherwise (R52,
R53; the check at fetch is the spec's decision D12, log 17). -/
def Obligations.FetchReadsTheBigEndianWord : Prop :=
  ∀ s : State,
    (s.pc + 1 < s.cfg.memSize → ∃ w : Word, s.fetch = some w ∧
      w.toNat = 256 * (s.mem.read s.pc).toNat + (s.mem.read (s.pc + 1)).toNat) ∧
    (s.cfg.memSize ≤ s.pc + 1 → s.fetch = none)

/-- One engine step: fetch, advance by two, decode, execute; a fetch out of bounds faults at pc and an
illegal word faults with pc advanced (R101). The step runs `exec` of the decoded instruction in the state
whose turn is taken and whose pc is two further. -/
def Obligations.EngineStepFollowsTheCycle : Prop :=
  ∀ s : State, s.turn = .engine → s.status = .running → s.setInFlight = none →
    (∀ w i, s.fetch = some w → decodeWord w = .instr i →
      step s = exec i (s.afterTurn.goto (s.pc + 2))) ∧
    (s.fetch = none → step s = .next (s.afterTurn.raise .fetchOutOfBounds s.pc s.pc)) ∧
    (∀ w why, s.fetch = some w → decodeWord w = .illegal why →
      step s = .next ((s.afterTurn.goto (s.pc + 2)).raise .decodeFault w.toNat s.pc))

/-- An illegal word changes nothing but pc, which holds a + 2, and the status, and asks the host nothing
(R102). -/
def Obligations.IllegalWordChangesOnlyPcAndStatus : Prop :=
  ∀ (s : State) (w : Word) (why : Illegal), s.turn = .engine → s.status = .running →
    s.setInFlight = none → s.fetch = some w → decodeWord w = .illegal why →
    ∃ t, step s = .next t ∧ t.status = .faulted .decodeFault w.toNat s.pc ∧ t.pc = s.pc + 2 ∧
      SameRegsBut [] s t ∧ t.i = s.i ∧ t.stack = s.stack ∧ SameMemory s t ∧ SameDisplay s t ∧
      SameTimers s t ∧ t.setInFlight = none ∧ t.cfg = s.cfg ∧ SameQueries s t

/-- On the Engine's turn: a step exists exactly while Running, and while a timer set is in flight it is the
add; no run leaves Halted or Faulted, so there is no step ever again (R100). -/
def Obligations.EngineStepsOnlyWhileRunning : Prop :=
  (∀ s : State, s.turn = .engine →
    ((∃ t, step s = .next t) ↔ s.status = .running) ∧
    ∀ u b, s.status = .running → s.setInFlight = some (u, b) →
      step s = .next (s.afterTurn.endTimerSet u b)) ∧
  ∀ (s t : State) (k : Nat), s.status ≠ .running → Reaches s k t → t.status = s.status

/-- The machine steps exactly when the agent whose turn it is has an enabled step, and never refuses; the
turn of a stopped Engine answers `fault`, which names the end (R100, R233). That a timer unit is still
enabled once the Engine has stopped is the spec's decision D47 (log 26); the outcome `fault` is the model's
choice (log 7). -/
def Obligations.TheAgentOnTurnMovesExactlyWhenEnabled : Prop :=
  ∀ s : State, ((∃ t, step s = .next t) ↔ s.enabled s.turn = true) ∧ (∀ r, step s ≠ .refused r) ∧
    (s.turn = .engine → s.status = .halted → step s = .fault .engineHalted) ∧
    (∀ reason info a, s.turn = .engine → s.status = .faulted reason info a →
      step s = .fault (.engineFaulted reason info a))

/-- Halted and Faulted are permanent: whatever runs on, only the timer units and the turns taken change
(R32, R239, R246; ticks after the end are the spec's decision D47, log 26). -/
def Obligations.StoppedEngineKeepsEverythingButTimers : Prop :=
  ∀ (s t : State) (k : Nat), s.status ≠ .running → Reaches s k t →
    t = { s with dt := t.dt, st := t.st, env := t.env } ∧ SameQueries s t

/-! ### Control flow (40_control_flow.md) -/

/-- 00EE pops the newest entry into pc, and halts with pc at a + 2 when the store is empty (R104; the
halt is the spec's decision D17, log 19). -/
def Obligations.ReturnPopsOrHalts : Prop :=
  (∀ (s : State) (a : Nat) (older : List Nat), s.stack = older ++ [a] →
    ∃ t, exec .ret s = .next t ∧ t.pc = a ∧ t.stack = older ∧ OnlyPcAndStack s t) ∧
  (∀ s : State, s.stack = [] → ∃ t, exec .ret s = .next t ∧ t.status = .halted ∧ t.pc = s.pc ∧
    t.stack = [] ∧ FaultFrame [] 0 0 s t)

/-- 1NNN, with its encoding, sets pc to NNN and nothing else (R105). -/
def Obligations.JumpSetsPc : Prop :=
  (∀ nnn : BitVec 12, decodeWord (0b0001#4 ++ nnn) = .instr (.jp nnn.toNat)) ∧
  ∀ (nnn : Nat) (s : State), ∃ t, exec (.jp nnn) s = .next t ∧ t.pc = nnn ∧ OnlyPc s t

/-- 2NNN pushes a + 2 and jumps; at the depth limit it faults with the store unchanged (R106; the limit
is the spec's decision D16, log 24; a is pc minus 2, log 11). -/
def Obligations.CallPushesTheNextAddress : Prop :=
  ∀ (nnn : Nat) (s : State),
    (s.cfg.maxCallDepth ≠ some s.stack.length → ∃ t, exec (.call nnn) s = .next t ∧ t.pc = nnn ∧
      t.stack = s.stack ++ [s.pc] ∧ OnlyPcAndStack s t) ∧
    (s.cfg.maxCallDepth = some s.stack.length → ∃ t, exec (.call nnn) s = .next t ∧
      t.status = .faulted .callDepthExceeded (s.pc - 2) (s.pc - 2) ∧ FaultFrame [] 0 0 s t)

/-- A call and its return: whatever the body did, a return with the call's frame on top goes back to the
instruction after the call and leaves the store as it was (R104, R106, R108). -/
def Obligations.ReturnGoesBackToTheCaller : Prop :=
  ∀ (nnn : Nat) (s : State), s.cfg.maxCallDepth ≠ some s.stack.length →
    ∃ t, exec (.call nnn) s = .next t ∧
      ∀ u : State, u.stack = t.stack →
        ∃ w, exec .ret u = .next w ∧ w.pc = s.pc ∧ w.stack = s.stack ∧ w.status = u.status

/-- BNNN jumps to NNN + V0, never masked (R107; unmasked is the spec's decision D13, log 17). -/
def Obligations.OffsetJumpAddsV0 : Prop :=
  ∀ (nnn : Nat) (s : State), ∃ t, exec (.jpV0 nnn) s = .next t ∧ t.pc = nnn + (s.V 0).toNat ∧ OnlyPc s t

/-- 3XNN and 4XNN, with their encodings, skip one instruction when VX equals, or does not equal, NN (R112,
R113). -/
def Obligations.ImmediateSkips : Prop :=
  (∀ (x : BitVec 4) (nn : Byte), decodeWord (0b0011#4 ++ x ++ nn) = .instr (.seByte x.toFin nn) ∧
    decodeWord (0b0100#4 ++ x ++ nn) = .instr (.sneByte x.toFin nn)) ∧
  ∀ (x : RegIdx) (nn : Byte) (s : State),
    (∃ t, exec (.seByte x nn) s = .next t ∧ t.pc = (if s.V x = nn then s.pc + 2 else s.pc) ∧
      OnlyPc s t) ∧
    (∃ t, exec (.sneByte x nn) s = .next t ∧ t.pc = (if s.V x = nn then s.pc else s.pc + 2) ∧
      OnlyPc s t)

/-- 5XY0 and 9XY0, with their encodings, skip one instruction when VX equals, or does not equal, VY
(40_control_flow.md section 3). That a low nibble other than 0 is illegal is the spec's decision D11
(log 16). -/
def Obligations.RegisterSkips : Prop :=
  (∀ x y : BitVec 4, decodeWord (0b0101#4 ++ x ++ y ++ 0b0000#4) = .instr (.seReg x.toFin y.toFin) ∧
    decodeWord (0b1001#4 ++ x ++ y ++ 0b0000#4) = .instr (.sneReg x.toFin y.toFin) ∧
    ∀ n : BitVec 4, n ≠ 0 → decodeWord (0b0101#4 ++ x ++ y ++ n) = .illegal .family5 ∧
      decodeWord (0b1001#4 ++ x ++ y ++ n) = .illegal .family9) ∧
  ∀ (x y : RegIdx) (s : State),
    (∃ t, exec (.seReg x y) s = .next t ∧ t.pc = (if s.V x = s.V y then s.pc + 2 else s.pc) ∧
      OnlyPc s t) ∧
    (∃ t, exec (.sneReg x y) s = .next t ∧ t.pc = (if s.V x = s.V y then s.pc else s.pc + 2) ∧
      OnlyPc s t)

/-! ### Register and ALU (41_register_alu.md) -/

/-- 6XNN loads NN; 7XNN adds NN modulo 256, and VF is no flag of it; with their encodings (R132, R133). -/
def Obligations.ImmediateLoadAndAdd : Prop :=
  (∀ (x : BitVec 4) (nn : Byte), decodeWord (0b0110#4 ++ x ++ nn) = .instr (.ldByte x.toFin nn) ∧
    decodeWord (0b0111#4 ++ x ++ nn) = .instr (.addByte x.toFin nn)) ∧
  ∀ (x : RegIdx) (nn : Byte) (s : State),
    (∃ t, exec (.ldByte x nn) s = .next t ∧ t.V x = nn ∧ OnlyRegs [x] s t) ∧
    (∃ t, exec (.addByte x nn) s = .next t ∧
      (t.V x).toNat = ((s.V x).toNat + nn.toNat) % 256 ∧ OnlyRegs [x] s t)

/-- 8XY0 to 8XY3 copy, OR, AND and XOR, bit by bit, and leave VF alone unless it is VX (R134 to R137;
that VF is left alone is the spec's decision D10, log 15). -/
def Obligations.CopyAndLogic : Prop :=
  ∀ (x y : RegIdx) (s : State),
    (∃ t, exec (.ldReg x y) s = .next t ∧ t.V x = s.V y ∧ OnlyRegs [x] s t) ∧
    (∃ t, exec (.orReg x y) s = .next t ∧ OnlyRegs [x] s t ∧
      ∀ j, (t.V x).getLsbD j = ((s.V x).getLsbD j || (s.V y).getLsbD j)) ∧
    (∃ t, exec (.andReg x y) s = .next t ∧ OnlyRegs [x] s t ∧
      ∀ j, (t.V x).getLsbD j = ((s.V x).getLsbD j && (s.V y).getLsbD j)) ∧
    (∃ t, exec (.xorReg x y) s = .next t ∧ OnlyRegs [x] s t ∧
      ∀ j, (t.V x).getLsbD j = ((s.V x).getLsbD j ^^ (s.V y).getLsbD j))

/-- 8XY4, with its encoding, adds modulo 256, with VF 1 exactly when the sum exceeds 255; the old VF is no
carry in (R138). -/
def Obligations.AddSetsCarry : Prop :=
  (∀ x y : BitVec 4,
    decodeWord (0b1000#4 ++ x ++ y ++ 0b0100#4) = .instr (.addReg x.toFin y.toFin)) ∧
  ∀ (x y : RegIdx) (s : State), ∃ t, exec (.addReg x y) s = .next t ∧
    ResultAndFlag x (((s.V x).toNat + (s.V y).toNat) % 256)
      (if 255 < (s.V x).toNat + (s.V y).toNat then 1 else 0) s t

/-- 8XY5 and 8XY7, with their encodings, subtract modulo 256, with VF 1 exactly when the difference is
strictly positive (R139, R141). -/
def Obligations.SubtractSetsStrictFlag : Prop :=
  (∀ x y : BitVec 4,
    decodeWord (0b1000#4 ++ x ++ y ++ 0b0101#4) = .instr (.subReg x.toFin y.toFin) ∧
    decodeWord (0b1000#4 ++ x ++ y ++ 0b0111#4) = .instr (.subnReg x.toFin y.toFin)) ∧
  ∀ (x y : RegIdx) (s : State),
    (∃ t, exec (.subReg x y) s = .next t ∧
      ResultAndFlag x (((s.V x).toNat + 256 - (s.V y).toNat) % 256)
        (if (s.V y).toNat < (s.V x).toNat then 1 else 0) s t) ∧
    (∃ t, exec (.subnReg x y) s = .next t ∧
      ResultAndFlag x (((s.V y).toNat + 256 - (s.V x).toNat) % 256)
        (if (s.V x).toNat < (s.V y).toNat then 1 else 0) s t)

/-- 8XY6 and 8XYE, with their encodings, shift VX by one, with the bit shifted out in VF, and ignore Y
(R140, R142). -/
def Obligations.ShiftsMoveTheBitOutToVF : Prop :=
  (∀ x y : BitVec 4,
    decodeWord (0b1000#4 ++ x ++ y ++ 0b0110#4) = .instr (.shr x.toFin y.toFin) ∧
    decodeWord (0b1000#4 ++ x ++ y ++ 0b1110#4) = .instr (.shl x.toFin y.toFin)) ∧
  ∀ (x y : RegIdx) (s : State),
    (∃ t, exec (.shr x y) s = .next t ∧ ResultAndFlag x ((s.V x).toNat / 2) ((s.V x).toNat % 2) s t) ∧
    (∃ t, exec (.shl x y) s = .next t ∧
      ResultAndFlag x (2 * (s.V x).toNat % 256) ((s.V x).toNat / 128) s t) ∧
    ∀ z, exec (.shr x y) s = exec (.shr x z) s ∧ exec (.shl x y) s = exec (.shl x z) s

/-- CXNN writes one random byte AND NN, whatever the host answers, and makes one query even when NN is 0
(R8, R143; the draw is the spec's decision D23, log 8). -/
def Obligations.RandomIsMasked : Prop :=
  ∀ (x : RegIdx) (nn : Byte) (s : State),
    (∀ b rest, s.env.random = b :: rest → s.randomAnswer = b) ∧
    ∃ t, exec (.rnd x nn) s = .next t ∧
      (∀ j, (t.V x).getLsbD j = (s.randomAnswer.getLsbD j && nn.getLsbD j)) ∧
      SameRegsBut [x] s t ∧ t.i = s.i ∧ t.pc = s.pc ∧ t.stack = s.stack ∧ SameMemory s t ∧
      SameDisplay s t ∧ SameTimers s t ∧ SameEngine s t ∧ t.cfg = s.cfg ∧
      t.env = { s.env with random := s.env.random.tail, queries := s.env.queries + 1 }

/-! ### Who may change what, over all instructions -/

/-- No instruction writes a register but its destination and, for the flag writers, VF (R20 to R22,
R144). -/
def Obligations.RegistersChangeOnlyWhereNamed : Prop :=
  ∀ (i : Instr) (s t : State), exec i s = .next t → SameRegsBut (regsWritten i) s t

/-- Only ANNN, FX1E and FX29 change I; only 2NNN and 00EE change the call frame store (R28, R208). -/
def Obligations.IndexAndStackWriters : Prop :=
  ∀ (i : Instr) (s t : State), exec i s = .next t →
    (t.i ≠ s.i → (∃ nnn, i = .ldI nnn) ∨ (∃ x, i = .addI x) ∨ (∃ x, i = .ldF x)) ∧
    (t.stack ≠ s.stack → (∃ nnn, i = .call nnn) ∨ i = .ret)

/-- Only FX33 and FX55 change memory, and only the bytes from I that they store (R51, R205, R206). -/
def Obligations.MemoryWriters : Prop :=
  ∀ (i : Instr) (s t : State) (a : Nat), s.mem.wf → exec i s = .next t →
    t.mem.read a ≠ s.mem.read a →
    s.effectiveAddr 0 ≤ a ∧ a < s.cfg.memSize ∧
      ((∃ x, i = .ldB x ∧ a < s.effectiveAddr 3) ∨
       (∃ x, i = .storeRegs x ∧ a < s.effectiveAddr (x.val + 1)))

/-- Only 00E0 and DXYN change the display buffer, and only DXYN presents, once (R164, R166; that 00E0 does
not present is the spec's decision D28, log 21). -/
def Obligations.DisplayWriters : Prop :=
  ∀ (i : Instr) (s t : State), exec i s = .next t →
    (t.disp ≠ s.disp → i = .cls ∨ ∃ x y n, i = .drw x y n) ∧
    (t.out ≠ s.out → (∃ x y n, i = .drw x y n) ∧ t.out = s.out ++ [t.disp])

/-- Only FX15 and FX18 touch a timer unit, each its own, and only the key and random instructions ask the
host anything (R6, R8, R58, R183, R184). -/
def Obligations.TimerAndHostUsers : Prop :=
  ∀ (i : Instr) (s t : State), exec i s = .next t →
    (∀ u, t.timer u ≠ s.timer u → ∃ x, i = timerSetInstr u x) ∧
    (t.setInFlight ≠ s.setInFlight → ∃ u x, i = timerSetInstr u x) ∧
    (t.env ≠ s.env → (∃ x nn, i = .rnd x nn) ∨ (∃ x, i = .skp x ∨ i = .sknp x ∨ i = .ldVxK x)) ∧
    t.cfg = s.cfg

/-! ### Display (42_display.md) -/

/-- 00E0 unsets every pixel and presents nothing (R160; no Present is the spec's decision D28, log 21).
-/
def Obligations.ClearUnsetsEveryPixel : Prop :=
  ∀ s : State, ∃ t, exec .cls s = .next t ∧ (∀ r c, t.disp.pixel r c = false) ∧ t.out = s.out ∧
    SameRegsBut [] s t ∧ t.i = s.i ∧ t.pc = s.pc ∧ t.stack = s.stack ∧ SameMemory s t ∧
    SameTimers s t ∧ SameEngine s t ∧ SameOutside s t

/-- `PlotXor` flips the pixel when the bit is 1, touches no other, and reports exactly a set pixel that
became unset (R162). -/
def Obligations.PlotXorFlipsOnePixel : Prop :=
  ∀ (g : Grid) (r r' : Fin 32) (c c' : Fin 64) (bit : Bool),
    (plotXor g r c bit).1.pixel r' c' =
      (if r' = r ∧ c' = c then g.pixel r c ^^ bit else g.pixel r' c') ∧
    ((plotXor g r c bit).2 = true ↔
      g.pixel r c = true ∧ (plotXor g r c bit).1.pixel r c = false)

/-- DXYN: every pixel of the grid is XORed with the sprite's pixel there, where the sprite stands at
(VX mod 64, VY mod 32), is clipped and never wraps; VF is 1 exactly when a set pixel was hit; the buffer is
presented once (R161, R163, R164). The bit order is the spec's decision D24 (PRESUMED, log 14); the axes,
the reading of all rows and N = 0 are its decisions D25 to D27 (log 21). -/
def Obligations.DrawXorsTheSprite : Prop :=
  ∀ (x y : RegIdx) (n : Nat) (s : State), n = 0 ∨ s.i.toNat + n ≤ s.cfg.memSize →
    ∃ t, exec (.drw x y n) s = .next t ∧
      (∀ r c, t.disp.pixel r c = (s.disp.pixel r c ^^ s.spritePixel x y n r c)) ∧
      (t.V vF).toNat =
        (if ∃ r c, s.disp.pixel r c = true ∧ s.spritePixel x y n r c = true then 1 else 0) ∧
      t.out = s.out ++ [t.disp] ∧
      SameRegsBut [vF] s t ∧ t.i = s.i ∧ t.pc = s.pc ∧ t.stack = s.stack ∧ SameMemory s t ∧
      SameTimers s t ∧ SameEngine s t ∧ SameOutside s t

/-- DXYN with a row byte out of bounds faults at the first one, though its row would be clipped: nothing is
plotted, VF is unchanged, nothing is presented (R161; the spec's decision D26, log 21). -/
def Obligations.DrawOutOfBoundsPlotsNothing : Prop :=
  ∀ (x y : RegIdx) (n : Nat) (s : State), n ≠ 0 → s.cfg.memSize < s.i.toNat + n →
    ∃ t, exec (.drw x y n) s = .next t ∧
      t.status = .faulted .memReadOutOfBounds (max s.i.toNat s.cfg.memSize) (s.pc - 2) ∧
      FaultFrame [] 0 0 s t

/-- Drawing the same sprite twice restores every pixel, and the second draw collides exactly when the
sprite has a visible pixel that the first draw left set. That follows from R161 and R162; R165 says it of
every visible pixel, which holds on a cleared buffer (90_conflicts.md C3). Where a sprite's pixels stand
rests on the spec's decisions D24 (bit order, PRESUMED, log 14) and D25 to D27 (axes, rows read, N = 0, log
21). -/
def Obligations.DrawingTwiceRestoresTheDisplay : Prop :=
  ∀ (x y : RegIdx) (n : Nat) (s : State), x ≠ vF → y ≠ vF → n = 0 ∨ s.i.toNat + n ≤ s.cfg.memSize →
    ∃ t u, exec (.drw x y n) s = .next t ∧ exec (.drw x y n) t = .next u ∧ u.disp = s.disp ∧
      (u.V vF = 1 ↔ ∃ r c, s.spritePixel x y n r c = true ∧ s.disp.pixel r c = false) ∧
      u.out = s.out ++ [t.disp, s.disp]

/-! ### Keys and timers (43_keys_timers.md, 60_exceptions.md section 6) -/

/-- EX9E skips when the host says key VX is held, EXA1 when it says it is not; each makes one query (R180,
R181; D22, log 8 and 20). -/
def Obligations.KeySkips : Prop :=
  ∀ (x : RegIdx) (s : State) (h : (s.V x).toNat < 16),
    (∀ b rest, s.env.held = b :: rest → s.heldAnswer ⟨(s.V x).toNat, h⟩ = b) ∧
    ∃ t u, exec (.skp x) s = .next t ∧ exec (.sknp x) s = .next u ∧
      t.pc = (if s.heldAnswer ⟨(s.V x).toNat, h⟩ = true then s.pc + 2 else s.pc) ∧
      u.pc = (if s.heldAnswer ⟨(s.V x).toNat, h⟩ = true then s.pc else s.pc + 2) ∧
      ∀ q, q = t ∨ q = u →
        SameRegsBut [] s q ∧ q.i = s.i ∧ q.stack = s.stack ∧ SameMemory s q ∧ SameDisplay s q ∧
        SameTimers s q ∧ SameEngine s q ∧ q.cfg = s.cfg ∧
        q.env = { s.env with held := s.env.held.tail, queries := s.env.queries + 1 }

/-- EX9E and EXA1 with VX above 15 fault before any query (R180, R181; the spec's decision D20, log 20).
-/
def Obligations.KeyNumberAbove15Faults : Prop :=
  ∀ (x : RegIdx) (s : State) (i : Instr), 16 ≤ (s.V x).toNat → i = .skp x ∨ i = .sknp x →
    ∃ t, exec i s = .next t ∧ t.status = .faulted .keyOutOfRange (s.V x).toNat (s.pc - 2) ∧
      FaultFrame [] 0 0 s t

/-- FX0A: with no key held pc goes back two, to the same instruction; with a key held VX gets its number.
One query either way (R182; D21, D40, log 8 and 20). -/
def Obligations.KeyWaitRewindsOrTakesTheKey : Prop :=
  ∀ (x : RegIdx) (s : State),
    (∀ k rest, s.env.first = k :: rest → s.firstAnswer = k) ∧
    ∃ t, exec (.ldVxK x) s = .next t ∧
      (s.firstAnswer = none → t.pc = s.pc - 2 ∧ SameRegsBut [] s t) ∧
      (∀ k, s.firstAnswer = some k → (t.V x).toNat = k.val ∧ t.pc = s.pc ∧ SameRegsBut [x] s t) ∧
      t.i = s.i ∧ t.stack = s.stack ∧ SameMemory s t ∧ SameDisplay s t ∧ SameTimers s t ∧
      SameEngine s t ∧ t.cfg = s.cfg ∧
      t.env = { s.env with first := s.env.first.tail, queries := s.env.queries + 1 }

/-- A step of FX0A with no key held leaves the machine about to fetch the same word again (R182, R264;
D40, log 20). -/
def Obligations.KeyWaitRefetchesTheSameWord : Prop :=
  ∀ (x : RegIdx) (s : State) (w : Word), s.turn = .engine → s.status = .running →
    s.setInFlight = none → s.fetch = some w → decodeWord w = .instr (.ldVxK x) →
    s.firstAnswer = none →
    ∃ t, step s = .next t ∧ t.pc = s.pc ∧ t.fetch = some w ∧ t.status = .running ∧
      t.setInFlight = none ∧ SameRegsBut [] s t ∧ SameTimers s t

/-- The first micro-step of FX15 and FX18: the counter is reset and VX is in flight; the unit's other
fields and everything else are unchanged (R183, R184, R231, R234). That a set is two micro-steps is the spec's
decision D29 (log 22), and that `exec` ends after the first, with VX in flight, is log 27. -/
def Obligations.TimerSetBeginsWithTheReset : Prop :=
  ∀ (u : TimerId) (x : RegIdx) (s : State),
    ∃ t, exec (timerSetInstr u x) s = .next t ∧ (t.timer u).c = 0 ∧
      (t.timer u).stopped = (s.timer u).stopped ∧ (t.timer u).latch = (s.timer u).latch ∧
      t.setInFlight = some (u, s.V x) ∧ SameButTimer u s t ∧ t.env = s.env

/-- The second micro-step of FX15 and FX18 is the Engine's next step: the value in flight is added, with no
saturation and no width limit, and nothing stays in flight (R100, R232, R234). That a set is two micro-steps is
the spec's decision D29 (log 22), and that the Engine's next turn is the second is log 27. -/
def Obligations.TimerSetEndsWithTheAdd : Prop :=
  ∀ (u : TimerId) (b : Byte) (s : State), s.turn = .engine → s.status = .running →
    s.setInFlight = some (u, b) →
    ∃ t, step s = .next t ∧ (t.timer u).c = (s.timer u).c + b.toNat ∧
      (t.timer u).stopped = (s.timer u).stopped ∧ (t.timer u).latch = (s.timer u).latch ∧
      t.setInFlight = none ∧ SameButTimer u s t

/-- The micro-steps of a tick: the write decrements the latched value,
holding at zero; the read latches the counter, or stops the unit at the terminal value; a fused tick
decrements at once; a stopped unit has no step (R233). That all this holds whatever the Engine's status is
the spec's decision D47 (log 26), the split is its decision D29 (log 22), and the outcome `fault` of a
stopped unit is the model's choice (log 7). -/
def Obligations.TicksReadThenWrite : Prop :=
  ∀ (u : TimerId) (s : State), s.turn = .timer u →
    (∀ r, (s.timer u).latch = some r → ∃ t, step s = .next t ∧
      t.timer u = { s.timer u with c := max r 1 - 1, latch := none } ∧ SameButTimer u s t ∧
      t.setInFlight = s.setInFlight) ∧
    ((s.timer u).latch = none → (s.timer u).stopped = false → ∃ t, step s = .next t ∧
      SameButTimer u s t ∧ t.setInFlight = s.setInFlight ∧
      t.timer u =
        if s.cfg.timerTerminal ≤ (s.timer u).c then { s.timer u with stopped := true }
        else if s.cfg.tickAtomic then { s.timer u with c := max (s.timer u).c 1 - 1 }
        else { s.timer u with latch := some (s.timer u).c }) ∧
    ((s.timer u).latch = none → (s.timer u).stopped = true → step s = .fault (.timerStopped u))

/-- The outcomes of a timer set of value v that one tick overlaps, for each order of the two engine
micro-steps (E) and the two tick micro-steps (T), the tick having read r when it read before the set
(R235; split ticks are the spec's decision D29, log 22). -/
def Obligations.TimerSetRacesWithOneTick : Prop :=
  ∀ (u : TimerId) (x : RegIdx) (w : Word) (s : State),
    s.status = .running → s.setInFlight = none → s.fetch = some w →
    decodeWord w = .instr (timerSetInstr u x) → (s.timer u).stopped = false →
    (s.timer u).latch = none → s.cfg.tickAtomic = false → s.cfg.wf = true →
    (s.timer u).c < s.cfg.timerTerminal →
    ∀ o ∈ ([([.timer u, .timer u, .engine, .engine], (s.V x).toNat),
        ([.timer u, .engine, .timer u, .engine], ((s.timer u).c - 1) + (s.V x).toNat),
        ([.timer u, .engine, .engine, .timer u], (s.timer u).c - 1),
        ([.engine, .timer u, .timer u, .engine], (s.V x).toNat),
        ([.engine, .timer u, .engine, .timer u], 0),
        ([.engine, .engine, .timer u, .timer u], (s.V x).toNat - 1)] : List (List Agent × Nat)),
      ∃ t, Reaches (s.withTurns o.1) 4 t ∧ (t.timer u).c = o.2 ∧ (t.timer u).latch = none ∧
        t.setInFlight = none ∧ t.pc = s.pc + 2

/-- With fused ticks only v and v minus 1 remain (R235; D29, log 22). -/
def Obligations.TimerSetRacesWithOneFusedTick : Prop :=
  ∀ (u : TimerId) (x : RegIdx) (w : Word) (s : State),
    s.status = .running → s.setInFlight = none → s.fetch = some w →
    decodeWord w = .instr (timerSetInstr u x) → (s.timer u).stopped = false →
    (s.timer u).latch = none → s.cfg.tickAtomic = true → s.cfg.wf = true →
    (s.timer u).c < s.cfg.timerTerminal →
    ∀ o ∈ ([([.timer u, .engine, .engine], (s.V x).toNat),
        ([.engine, .timer u, .engine], (s.V x).toNat),
        ([.engine, .engine, .timer u], (s.V x).toNat - 1)] : List (List Agent × Nat)),
      ∃ t, Reaches (s.withTurns o.1) 3 t ∧ (t.timer u).c = o.2 ∧ t.setInFlight = none ∧
        t.pc = s.pc + 2

/-- 2k turns of a unit that is neither stopped nor in a tick nor at the terminal value are k complete
ticks: the counter goes down by k and holds at zero (R233; split ticks, log 22). -/
def Obligations.CompleteTicksCountDown : Prop :=
  ∀ (k : Nat) (u : TimerId) (s : State), (s.timer u).stopped = false → (s.timer u).latch = none →
    (s.timer u).c < s.cfg.timerTerminal → s.cfg.tickAtomic = false →
    ∃ t, Reaches (s.withTurns (List.replicate (2 * k) (.timer u))) (2 * k) t ∧
      (t.timer u).c = (s.timer u).c - k ∧ (t.timer u).latch = none ∧
      (t.timer u).stopped = false ∧ t.setInFlight = s.setInFlight ∧ SameButTimer u s t

/-- With no set of a unit under way and no older tick to write back, no step raises its counter, and none
leaves such a tick (R236). -/
def Obligations.CounterNeverRisesWithoutASet : Prop :=
  ∀ (u : TimerId) (s t : State), Settled u s → step s = .next t →
    (∀ b, s.setInFlight ≠ some (u, b)) → (∀ b, t.setInFlight ≠ some (u, b)) →
    (t.timer u).c ≤ (s.timer u).c ∧ Settled u t

/-- FX07 reads the delay counter, and faults with VX unchanged when it exceeds 255 (R185; the fault is the
spec's decision D31, log 22). -/
def Obligations.DelayTimerReads : Prop :=
  ∀ (x : RegIdx) (s : State),
    (s.dt.c ≤ 255 → ∃ t, exec (.ldVxDT x) s = .next t ∧ (t.V x).toNat = s.dt.c ∧ OnlyRegs [x] s t) ∧
    (255 < s.dt.c → ∃ t, exec (.ldVxDT x) s = .next t ∧
      t.status = .faulted .timerValueOutOfRange s.dt.c (s.pc - 2) ∧ FaultFrame [] 0 0 s t)

/-! ### Index and memory (44_index_memory.md) -/

/-- ANNN, with its encoding, loads I with NNN (R200). -/
def Obligations.LoadIndex : Prop :=
  (∀ nnn : BitVec 12, decodeWord (0b1010#4 ++ nnn) = .instr (.ldI nnn.toNat)) ∧
  ∀ (nnn : Nat) (s : State), nnn < 0x1000 →
    ∃ t, exec (.ldI nnn) s = .next t ∧ t.i.toNat = nnn ∧ OnlyIndexAndRegs [] s t

/-- FX1E adds VX, as it was, to I modulo 0x1000, with VF 1 exactly when the sum exceeds 0xFFF (R202; the
mask and the sampling are the spec's decisions D14 and D9, log 15 and 18). -/
def Obligations.AddToIndexSetsOverflow : Prop :=
  ∀ (x : RegIdx) (s : State), ∃ t, exec (.addI x) s = .next t ∧
    t.i.toNat = (s.i.toNat + (s.V x).toNat) % 0x1000 ∧
    (t.V vF).toNat = (if 0xFFF < s.i.toNat + (s.V x).toNat then 1 else 0) ∧ OnlyIndexAndRegs [vF] s t

/-- FX29 points I at glyph VX, unreduced (R204; the spec's decision D45, log 18). -/
def Obligations.FontPointer : Prop :=
  ∀ (x : RegIdx) (s : State), ∃ t, exec (.ldF x) s = .next t ∧
    t.i.toNat = 0x50 + 5 * (s.V x).toNat ∧ OnlyIndexAndRegs [] s t

/-- FX33 stores the hundreds, tens and ones of VX at I, I + 1 and I + 2 and changes nothing else; past the
end of memory it stores the bytes that fit and faults at the first that does not (R205; D34, log 23). -/
def Obligations.DecimalDigitsStored : Prop :=
  ∀ (x : RegIdx) (s : State), s.mem.wf →
    (s.effectiveAddr 2 < s.cfg.memSize → ∃ t, exec (.ldB x) s = .next t ∧
      (t.mem.read (s.effectiveAddr 0)).toNat = (s.V x).toNat / 100 ∧
      (t.mem.read (s.effectiveAddr 1)).toNat = (s.V x).toNat / 10 % 10 ∧
      (t.mem.read (s.effectiveAddr 2)).toNat = (s.V x).toNat % 10 ∧
      OnlyMemory (s.effectiveAddr 0) 3 s t) ∧
    (s.cfg.memSize ≤ s.effectiveAddr 2 → ∃ t, exec (.ldB x) s = .next t ∧
      t.status = .faulted .memWriteOutOfBounds (max (s.effectiveAddr 0) s.cfg.memSize) (s.pc - 2) ∧
      FaultFrame [] (s.effectiveAddr 0) (s.cfg.memSize - s.effectiveAddr 0) s t ∧
      (s.effectiveAddr 0 < s.cfg.memSize →
        (t.mem.read (s.effectiveAddr 0)).toNat = (s.V x).toNat / 100) ∧
      (s.effectiveAddr 1 < s.cfg.memSize →
        (t.mem.read (s.effectiveAddr 1)).toNat = (s.V x).toNat / 10 % 10))

/-- FX55, with its encoding, stores V0 to VX inclusive from I, leaving I alone (44_index_memory.md section
3); past the end of memory it faults at the first byte that does not fit, and the bytes below it are
stored. That they stay stored is the spec's decision D34 (log 23). -/
def Obligations.RegisterBlockStored : Prop :=
  (∀ x : BitVec 4, decodeWord (0b1111#4 ++ x ++ 0b01010101#8) = .instr (.storeRegs x.toFin)) ∧
  ∀ (x : RegIdx) (s : State), s.mem.wf →
    (s.effectiveAddr x.val < s.cfg.memSize → ∃ t, exec (.storeRegs x) s = .next t ∧
      (∀ k : RegIdx, k ≤ x → t.mem.read (s.effectiveAddr k.val) = s.V k) ∧
      OnlyMemory (s.effectiveAddr 0) (x.val + 1) s t) ∧
    (s.cfg.memSize ≤ s.effectiveAddr x.val → ∃ t, exec (.storeRegs x) s = .next t ∧
      t.status = .faulted .memWriteOutOfBounds (max (s.effectiveAddr 0) s.cfg.memSize) (s.pc - 2) ∧
      (∀ k : RegIdx, s.effectiveAddr k.val < s.cfg.memSize →
        t.mem.read (s.effectiveAddr k.val) = s.V k) ∧
      FaultFrame [] (s.effectiveAddr 0) (s.cfg.memSize - s.effectiveAddr 0) s t)

/-- FX65, with its encoding, loads V0 to VX inclusive from I, leaving I alone; past the end of memory it
faults at the first byte that does not fit, and the registers below it are loaded (R207). -/
def Obligations.RegisterBlockLoaded : Prop :=
  (∀ x : BitVec 4, decodeWord (0b1111#4 ++ x ++ 0b01100101#8) = .instr (.loadRegs x.toFin)) ∧
  ∀ (x : RegIdx) (s : State),
    (s.effectiveAddr x.val < s.cfg.memSize → ∃ t, exec (.loadRegs x) s = .next t ∧
      (∀ k : RegIdx, k ≤ x → t.V k = s.mem.read (s.effectiveAddr k.val)) ∧
      OnlyRegs (regsUpTo x) s t) ∧
    (s.cfg.memSize ≤ s.effectiveAddr x.val → ∃ t, exec (.loadRegs x) s = .next t ∧
      t.status = .faulted .memReadOutOfBounds (max (s.effectiveAddr 0) s.cfg.memSize) (s.pc - 2) ∧
      (∀ k : RegIdx, s.effectiveAddr k.val < s.cfg.memSize →
        t.V k = s.mem.read (s.effectiveAddr k.val)) ∧
      (∀ k : RegIdx, s.cfg.memSize ≤ s.effectiveAddr k.val → t.V k = s.V k) ∧
      FaultFrame allRegs 0 0 s t)

/-- What FX55 stored, FX65 loads back, in any later state with that memory and that I (R206, R207). -/
def Obligations.StoredRegistersLoadBack : Prop :=
  ∀ (x : RegIdx) (s : State), s.mem.wf → s.effectiveAddr x.val < s.cfg.memSize →
    ∃ t, exec (.storeRegs x) s = .next t ∧
      ∀ u : State, u.mem = t.mem → u.i = t.i → u.cfg = t.cfg →
        ∃ w, exec (.loadRegs x) u = .next w ∧ ∀ k : RegIdx, k ≤ x → w.V k = s.V k

/-- The very next fetch reads what FX55 or FX33 stored, where the store hit either byte of the word at pc,
and what memory held, where it did not (R66, R261; that code may be overwritten is the spec's decision D33,
log 29). -/
def Obligations.StoresAreSeenByTheNextFetch : Prop :=
  ∀ (x : RegIdx) (s : State), s.mem.wf → s.pc + 1 < s.cfg.memSize →
    (s.effectiveAddr x.val < s.cfg.memSize → ∃ t, exec (.storeRegs x) s = .next t ∧
      FetchesAfterStore ((regsUpTo x).map s.V) s t) ∧
    (s.effectiveAddr 2 < s.cfg.memSize → ∃ t, exec (.ldB x) s = .next t ∧
      FetchesAfterStore [BitVec.ofNat 8 ((s.V x).toNat / 100), BitVec.ofNat 8 ((s.V x).toNat / 10 % 10),
        BitVec.ofNat 8 ((s.V x).toNat % 10)] s t)

/-- Canonical memories that read the same everywhere are the same data. -/
def Obligations.EqualReadsAreEqualMemories : Prop :=
  ∀ m m' : Memory, m.wf → m'.wf → (∀ a, m.read a = m'.read a) → m = m'

/-! ### Power-on and the invariant (70_reset_and_hazards.md, 10_state.md) -/

/-- The power-on state with a program loaded, for every value of the parameters: registers zero, pc at
0x200, empty store, cleared display, the program from 0x200, the font at 0x50 to 0x9F and `INIT_MEMORY`
elsewhere, timers at `INIT_DT` and `INIT_ST`, Running, nothing in flight, nothing presented (R251). A
program is refused exactly when it does not fit (R253; D38, log 13). -/
def Obligations.PowerOnStateIsAsSpecified : Prop :=
  ∀ (cfg : Config) (p : PowerOn) (env : Env) (program : List Byte), p.wf cfg.memSize →
    ((State.powerOn cfg p env).loadProgram program = none ↔
      cfg.memSize - 0x200 < program.length) ∧
    ∀ s, (State.powerOn cfg p env).loadProgram program = some s →
      (∀ r, s.V r = 0) ∧ s.i = 0 ∧ s.pc = 0x200 ∧ s.stack = [] ∧
      (∀ r c, s.disp.pixel r c = false) ∧
      (∀ a, s.mem.read a =
        if 0x200 ≤ a ∧ a < 0x200 + program.length then program.getD (a - 0x200) 0
        else if 0x50 ≤ a ∧ a < 0xA0 then p.fontGlyphs.getD (a - 0x50) 0
        else p.initMemory.read a) ∧
      s.dt = ⟨p.initDT.toNat, false, none⟩ ∧ s.st = ⟨p.initST.toNat, false, none⟩ ∧
      s.status = .running ∧ s.setInFlight = none ∧ s.out = [] ∧ s.cfg = cfg

/-- The power-on state meets the invariant, and so does any program load (R10, R24, R252). -/
def Obligations.PowerOnMeetsTheInvariant : Prop :=
  ∀ (cfg : Config) (p : PowerOn) (env : Env) (program : List Byte) (s : State),
    cfg.wf = true → p.wf cfg.memSize →
    (State.powerOn cfg p env).loadProgram program = some s → s.Inv

/-- The reset state meets the invariant; it lists no memory and starts at 0x200 (R38). -/
def Obligations.ResetMeetsTheInvariant : Prop :=
  State.reset.Inv ∧ State.reset.mem = Memory.blank ∧ State.reset.pc = 0x200 ∧
    State.reset.status = .running

/-- Every step keeps the invariant, from every state that meets it, and never changes the parameters:
memory stays canonical and inside the address space, I stays within 12 bits, the call depth within its
limit, timer units sound, and a set in flight only while Running (R10, R24, R33, R50, R106). -/
def Obligations.EveryStepKeepsTheInvariant : Prop :=
  ∀ s t : State, s.Inv → step s = .next t → t.Inv ∧ t.cfg = s.cfg

/-! ### The end of a run (60_exceptions.md section 9) -/

/-- How a run ends (R225, R245). It ends well, ends in a fault, hangs, or is cut short by the schedule; its
observed final state is one, whatever ticks follow the halt; a fault and a hang refute every observation. The
Engine halts exactly by 00EE with an empty store. A jump to itself never ends, and neither does FX0A while the
host answers that no key is held. The halt is the spec's decision D17 (log 19), ticks after it are D47 (log
26), the retry is D40 and D46 (log 20); what a hang is, and a run cut short, is log 31. -/
def Obligations.RunsEndWellBadlyOrHang : Prop :=
  (∀ s : State, (∃ o, EndsWellWith s o) ∨ EndsBadly s ∨ Hangs s ∨ CutShort s) ∧
  (∀ (s : State) (o o' : Observed), EndsWellWith s o → EndsWellWith s o' → o = o') ∧
  (∀ (s : State) (o : Observed), EndsBadly s ∨ Hangs s → ¬ EndsWellWith s o) ∧
  (∀ s t : State, s.status = .running → step s = .next t →
    (t.endedWell ↔ s.turn = .engine ∧ s.setInFlight = none ∧ s.stack = [] ∧
      ∃ w, s.fetch = some w ∧ decodeWord w = .instr .ret)) ∧
  (∀ (s t : State) (w : Word) (k : Nat), s.status = .running → s.setInFlight = none → s.fetch = some w →
    decodeWord w = .instr (.jp s.pc) → Reaches s k t → t.status = .running ∧ t.observed = s.observed) ∧
  (∀ (s t : State) (w : Word) (x : RegIdx) (k : Nat), s.status = .running → s.setInFlight = none →
    s.fetch = some w → decodeWord w = .instr (.ldVxK x) →
    (∀ j u, j < k → Reaches s j u → u.firstAnswer = none) → Reaches s k t →
    t.status = .running ∧ t.observed = s.observed)
end

