-- ==== Sys2Proof/Laws/Decode.lean ====
section
/-!
SUPPORT. The fields of a word built in one of the formats (R71, R73), and the bytes of a word.
-/

namespace Sys2Proof

@[simp] theorem toFin_nibOf (r : RegIdx) : (nibOf r).toFin = r := rfl

@[simp] theorem familyOf_encodeA (f : BitVec 4) (n : Nat) : familyOf (encodeA f n) = f := by
  unfold familyOf encodeA
  rw [BitVec.extractLsb'_append_eq_of_le (by decide)]
  simp

theorem fieldNNN_encodeA (f : BitVec 4) (n : Nat) : fieldNNN (encodeA f n) = n % 0x1000 := by
  unfold fieldNNN encodeA
  rw [BitVec.extractLsb'_append_eq_of_add_le (by decide)]
  simp

@[simp] theorem familyOf_encodeXK (f : BitVec 4) (x : RegIdx) (nn : Byte) :
    familyOf (encodeXK f x nn) = f := by
  unfold familyOf encodeXK
  rw [BitVec.extractLsb'_append_eq_of_le (by decide), BitVec.extractLsb'_append_eq_of_le (by decide)]
  simp

@[simp] theorem fieldX_encodeXK (f : BitVec 4) (x : RegIdx) (nn : Byte) :
    fieldX (encodeXK f x nn) = x := by
  unfold fieldX regOf encodeXK
  rw [BitVec.extractLsb'_append_eq_of_le (by decide), BitVec.extractLsb'_append_eq_of_add_le (by decide)]
  simp

@[simp] theorem fieldNN_encodeXK (f : BitVec 4) (x : RegIdx) (nn : Byte) :
    fieldNN (encodeXK f x nn) = nn := by
  unfold fieldNN encodeXK
  rw [BitVec.extractLsb'_append_eq_of_add_le (by decide)]
  simp

@[simp] theorem familyOf_encodeXYN (f : BitVec 4) (x y : RegIdx) (n : BitVec 4) :
    familyOf (encodeXYN f x y n) = f := by
  unfold familyOf encodeXYN
  rw [BitVec.extractLsb'_append_eq_of_le (by decide), BitVec.extractLsb'_append_eq_of_le (by decide),
    BitVec.extractLsb'_append_eq_of_le (by decide)]
  simp

@[simp] theorem fieldX_encodeXYN (f : BitVec 4) (x y : RegIdx) (n : BitVec 4) :
    fieldX (encodeXYN f x y n) = x := by
  unfold fieldX regOf encodeXYN
  rw [BitVec.extractLsb'_append_eq_of_le (by decide), BitVec.extractLsb'_append_eq_of_le (by decide),
    BitVec.extractLsb'_append_eq_of_add_le (by decide)]
  simp

@[simp] theorem fieldY_encodeXYN (f : BitVec 4) (x y : RegIdx) (n : BitVec 4) :
    fieldY (encodeXYN f x y n) = y := by
  unfold fieldY regOf encodeXYN
  rw [BitVec.extractLsb'_append_eq_of_le (by decide), BitVec.extractLsb'_append_eq_of_add_le (by decide)]
  simp

@[simp] theorem fieldN_encodeXYN (f : BitVec 4) (x y : RegIdx) (n : BitVec 4) :
    fieldN (encodeXYN f x y n) = n := by
  unfold fieldN encodeXYN
  rw [BitVec.extractLsb'_append_eq_of_add_le (by decide)]
  simp

/-! ### A word put together again from its fields -/

/-- Two neighbouring fields of a word, put together. -/
theorem joinFields (w : Word) {hi lo n m : Nat} (h : hi = lo + n) :
    w.extractLsb' hi m ++ w.extractLsb' lo n = w.extractLsb' lo (m + n) := by
  subst h
  rw [BitVec.extractLsb'_append_extractLsb'_eq_extractLsb' rfl]

theorem wholeWord (w : Word) : w.extractLsb' 0 16 = w := by simp

theorem nibOf_regOf (w : Word) (lo : Nat) : nibOf (regOf w lo) = w.extractLsb' lo 4 := rfl

/-- Format A loses no bit of a word. -/
theorem encodeA_fields (w : Word) : encodeA (familyOf w) (fieldNNN w) = w := by
  unfold encodeA familyOf fieldNNN
  rw [BitVec.ofNat_toNat, BitVec.setWidth_eq, joinFields w (hi := 12) (lo := 0) rfl]
  exact wholeWord w

/-- Format XK loses no bit of a word. -/
theorem encodeXK_fields (w : Word) : encodeXK (familyOf w) (fieldX w) (fieldNN w) = w := by
  unfold encodeXK familyOf fieldX fieldNN
  rw [nibOf_regOf, joinFields w (hi := 12) (lo := 8) rfl, joinFields w (hi := 8) (lo := 0) rfl]
  exact wholeWord w

/-- Formats XY and XYN lose no bit of a word. -/
theorem encodeXYN_fields (w : Word) :
    encodeXYN (familyOf w) (fieldX w) (fieldY w) (fieldN w) = w := by
  unfold encodeXYN familyOf fieldX fieldY fieldN
  rw [nibOf_regOf, nibOf_regOf, joinFields w (hi := 12) (lo := 8) rfl,
    joinFields w (hi := 8) (lo := 4) rfl, joinFields w (hi := 4) (lo := 0) rfl]
  exact wholeWord w

/-! ### Formats as concatenated fields -/

theorem encodeA_eq (f : BitVec 4) (nnn : BitVec 12) : encodeA f nnn.toNat = f ++ nnn := by
  simp [encodeA]

theorem encodeXK_eq (f x : BitVec 4) (nn : Byte) : encodeXK f x.toFin nn = f ++ x ++ nn := rfl

theorem encodeXYN_eq (f x y n : BitVec 4) : encodeXYN f x.toFin y.toFin n = f ++ x ++ y ++ n := rfl

/-! ### Bytes -/

/-- A word read back from its two bytes, high byte first (R52). -/
@[simp] theorem wordOfBytes_bytes (w : Word) : wordOfBytes (hiByte w) (loByte w) = w := by
  unfold wordOfBytes hiByte loByte
  apply BitVec.eq_of_getLsbD_eq
  intro i hi
  rw [BitVec.getLsbD_append]
  by_cases h : i < 8
  · simp [h]
  · simp [h, show i - 8 < 8 by omega, show 8 + (i - 8) = i by omega]

@[simp] theorem hiByte_wordOfBytes (hi lo : Byte) : hiByte (wordOfBytes hi lo) = hi := by
  unfold hiByte wordOfBytes
  rw [BitVec.extractLsb'_append_eq_of_le (by decide)]
  simp

@[simp] theorem loByte_wordOfBytes (hi lo : Byte) : loByte (wordOfBytes hi lo) = lo := by
  unfold loByte wordOfBytes
  rw [BitVec.extractLsb'_append_eq_of_add_le (by decide)]
  simp

end Sys2Proof
end

