-- ==== Sys2Proof/Laws/Display.lean ====
section
/-!
SUPPORT. What one pixel write and one plot do to every pixel of the grid.
-/

namespace Sys2Proof.Machine

/-- A pixel write changes that pixel and no other. -/
theorem Grid.pixel_setPixel (g : Grid) (r r' : Fin 32) (c c' : Fin 64) (b : Bool) :
    (g.setPixel r c b).pixel r' c' = if r' = r ∧ c' = c then b else g.pixel r' c' := by
  simp only [Grid.setPixel, Grid.pixel, Vector.get_eq_getElem, Vector.getElem_set, Fin.ext_iff]
  by_cases hr : r.val = r'.val
  · simp only [hr, if_true, true_and, Vector.getElem_set]
    by_cases hc : c.val = c'.val
    · simp [hc]
    · simp [hc, Ne.symm hc]
  · simp [hr, Ne.symm hr]

/-- Every pixel of the cleared grid is unset. -/
@[simp] theorem Grid.pixel_clear (r : Fin 32) (c : Fin 64) : Grid.clear.pixel r c = false := by
  simp [Grid.clear, Grid.pixel, Vector.get_eq_getElem]

/-- Grids with the same pixels are the same grid. -/
theorem Grid.ext_pixel {g g' : Grid} (h : ∀ r c, g.pixel r c = g'.pixel r c) : g = g' := by
  refine Vector.ext fun r hr => Vector.ext fun c hc => ?_
  simpa [Grid.pixel, Vector.get_eq_getElem] using h ⟨r, hr⟩ ⟨c, hc⟩

/-- A clipped plot: only the plotted pixel can change, by XOR with the bit, and the report says whether
it was set and the bit was 1. A plot outside the grid does nothing (R162, R163). -/
theorem plotClipped_pixel (g : Grid) (r c : Nat) (bit : Bool) (r' : Fin 32) (c' : Fin 64) :
    (plotClipped g r c bit).1.pixel r' c' =
      if r'.val = r ∧ c'.val = c then g.pixel r' c' ^^ bit else g.pixel r' c' := by
  unfold plotClipped
  split
  · rename_i h
    unfold plotXor
    cases bit
    · simp
    · simp only [if_true, Grid.pixel_setPixel, Fin.ext_iff, Bool.xor_true]
      split
      · rename_i he
        congr 1
        obtain ⟨rfl, rfl⟩ := he
        rfl
      · rfl
  · rename_i h
    rw [if_neg]
    rintro ⟨rfl, rfl⟩
    exact h ⟨r'.isLt, c'.isLt⟩

/-- What a clipped plot reports. -/
theorem plotClipped_report (g : Grid) (r c : Nat) (bit : Bool) :
    (plotClipped g r c bit).2 = true ↔
      bit = true ∧ ∃ (hr : r < 32) (hc : c < 64), g.pixel ⟨r, hr⟩ ⟨c, hc⟩ = true := by
  unfold plotClipped
  split
  · rename_i h
    unfold plotXor
    cases bit <;> simp [h.1, h.2]
  · rename_i h
    simp only [Bool.false_eq_true, false_iff, not_and]
    rintro - ⟨hr, hc, -⟩
    exact h ⟨hr, hc⟩

end Sys2Proof.Machine
end

