-- ==== Sys2Proof/Laws/Memory.lean ====
section
/-!
SUPPORT. The laws of memory: a read after a write, the canonical form kept by every operation, and the
bounds of the listed addresses.
-/

namespace Sys2Proof.Machine

/-! ### Lists of cells -/

theorem lookupCell_insertCell (a b : Nat) (v : Byte) (l : List Host.Cell) :
    lookupCell b (insertCell a v l) = if b = a then some v else lookupCell b l := by
  induction l with
  | nil => by_cases h : b = a <;> simp [insertCell, lookupCell, h]
  | cons c l ih =>
    obtain ⟨d, w⟩ := c
    simp only [insertCell]
    split
    · rfl
    · split
      · subst d
        simp only [lookupCell]
        split <;> rfl
      · simp only [lookupCell, ih]
        split <;> split <;> simp_all

/-- A rising list lists no address below its head. -/
theorem lookupCell_eq_none {b : Nat} {l : List Host.Cell} (h : ∀ c ∈ l, b < c.1) :
    lookupCell b l = none := by
  induction l with
  | nil => rfl
  | cons c l ih =>
    have := h c (by simp)
    simp only [lookupCell]
    rw [if_neg (by omega), ih fun c hc => h c (List.mem_cons_of_mem _ hc)]

theorem lookupCell_eraseCell (a b : Nat) {l : List Host.Cell} (h : l.Pairwise (fun c d => c.1 < d.1)) :
    lookupCell b (eraseCell a l) = if b = a then none else lookupCell b l := by
  induction l with
  | nil => by_cases h : b = a <;> simp [eraseCell, lookupCell]
  | cons c l ih =>
    obtain ⟨d, w⟩ := c
    rw [List.pairwise_cons] at h
    simp only [eraseCell]
    split
    · subst d
      split
      · subst b; exact lookupCell_eq_none h.1
      · rename_i hb
        simp only [lookupCell, if_neg hb]
    · simp only [lookupCell, ih h.2]
      split <;> split <;> simp_all

theorem mem_insertCell {a : Nat} {v : Byte} {l : List Host.Cell} {c : Host.Cell}
    (h : c ∈ insertCell a v l) : c = (a, v) ∨ c ∈ l := by
  induction l with
  | nil => simpa [insertCell] using h
  | cons d l ih =>
    simp only [insertCell] at h
    split at h
    · simpa using h
    · split at h
      · rcases List.mem_cons.mp h with h | h
        · exact .inl h
        · exact .inr (List.mem_cons_of_mem _ h)
      · rcases List.mem_cons.mp h with h | h
        · exact .inr (h ▸ List.mem_cons_self)
        · exact (ih h).imp_right (List.mem_cons_of_mem _)

theorem mem_eraseCell {a : Nat} {l : List Host.Cell} {c : Host.Cell} (h : c ∈ eraseCell a l) : c ∈ l := by
  induction l with
  | nil => exact h
  | cons d l ih =>
    simp only [eraseCell] at h
    split at h
    · exact List.mem_cons_of_mem _ h
    · rcases List.mem_cons.mp h with h | h
      · exact h ▸ List.mem_cons_self
      · exact List.mem_cons_of_mem _ (ih h)

theorem rising_insertCell (a : Nat) (v : Byte) {l : List Host.Cell}
    (h : l.Pairwise (fun c d => c.1 < d.1)) :
    (insertCell a v l).Pairwise (fun c d => c.1 < d.1) := by
  induction l with
  | nil => simp [insertCell]
  | cons c l ih =>
    obtain ⟨d, w⟩ := c
    rw [List.pairwise_cons] at h
    simp only [insertCell]
    split
    · rename_i hd
      simp only [List.pairwise_cons, List.mem_cons]
      refine ⟨?_, h⟩
      rintro c (rfl | hc)
      · exact hd
      · exact Nat.lt_trans hd (h.1 c hc)
    · split
      · subst d
        exact List.pairwise_cons.mpr h
      · refine List.pairwise_cons.mpr ⟨fun c hc => ?_, ih h.2⟩
        rcases mem_insertCell hc with rfl | hc
        · dsimp only; omega
        · exact h.1 c hc

theorem rising_eraseCell (a : Nat) {l : List Host.Cell} (h : l.Pairwise (fun c d => c.1 < d.1)) :
    (eraseCell a l).Pairwise (fun c d => c.1 < d.1) := by
  induction l with
  | nil => exact h
  | cons c l ih =>
    rw [List.pairwise_cons] at h
    simp only [eraseCell]
    split
    · exact h.2
    · exact List.pairwise_cons.mpr ⟨fun d hd => h.1 d (mem_eraseCell hd), ih h.2⟩

theorem not_mem_eraseCell {a : Nat} {l : List Host.Cell} (h : l.Pairwise (fun c d => c.1 < d.1))
    {c : Host.Cell} (hc : c ∈ eraseCell a l) : c.1 ≠ a := by
  induction l with
  | nil => simp [eraseCell] at hc
  | cons d l ih =>
    rw [List.pairwise_cons] at h
    simp only [eraseCell] at hc
    split at hc
    · rename_i hd
      have := h.1 c hc
      omega
    · rename_i hd
      rcases List.mem_cons.mp hc with rfl | hc
      · exact fun h => hd h.symm
      · exact ih h.2 hc

/-! ### Memory -/

/-- The canonical form is kept by a write. -/
theorem Memory.write_wf {m : Memory} (h : m.wf) (a : Nat) (v : Byte) : (m.write a v).wf := by
  unfold Memory.write
  split
  · exact ⟨rising_eraseCell a h.1, fun c hc => h.2 c (mem_eraseCell hc)⟩
  · rename_i hv
    refine ⟨rising_insertCell a v h.1, fun c hc => ?_⟩
    rcases mem_insertCell hc with rfl | hc
    · exact hv
    · exact h.2 c hc

/-- A byte reads as the last byte written to it, and every other byte as before. -/
theorem Memory.read_write {m : Memory} (h : m.wf) (a b : Nat) (v : Byte) :
    (m.write a v).read b = if b = a then v else m.read b := by
  unfold Memory.write Memory.read
  split
  · rename_i hv
    rw [lookupCell_eraseCell a b h.1]
    split
    · simp_all
    · rfl
  · rw [lookupCell_insertCell]
    split <;> rfl

/-- Writes keep the listed addresses within an address space that holds the one written. -/
theorem Memory.write_within {m : Memory} {size : Nat} (h : m.within size) {a : Nat} (ha : a < size)
    (v : Byte) : (m.write a v).within size := by
  unfold Memory.write
  split
  · exact fun c hc => h c (mem_eraseCell hc)
  · intro c hc
    rcases mem_insertCell hc with rfl | hc
    · exact ha
    · exact h c hc

/-- Memory with nothing listed is canonical. -/
theorem Memory.blank_wf : Memory.blank.wf := ⟨List.Pairwise.nil, by simp [Memory.blank]⟩

/-- The canonical form is kept by a run of writes. -/
theorem Memory.writeBytes_wf {m : Memory} (h : m.wf) (a : Nat) (vs : List Byte) :
    (m.writeBytes a vs).wf := by
  induction vs generalizing m a with
  | nil => exact h
  | cons v vs ih => exact ih (Memory.write_wf h a v) (a + 1)

/-- A run of writes at ascending addresses: each byte of the run reads as written, every other byte as
before. -/
theorem Memory.read_writeBytes {m : Memory} (h : m.wf) (a b : Nat) (vs : List Byte) :
    (m.writeBytes a vs).read b =
      if a ≤ b ∧ b < a + vs.length then vs.getD (b - a) 0#8 else m.read b := by
  induction vs generalizing m a with
  | nil => simp [Memory.writeBytes]
  | cons v vs ih =>
    rw [Memory.writeBytes, ih (Memory.write_wf h a v), Memory.read_write h]
    by_cases hb : b = a
    · subst b; simp
    · by_cases h1 : a + 1 ≤ b ∧ b < a + 1 + vs.length
      · have e : b - a = (b - (a + 1)) + 1 := by omega
        rw [if_pos h1, if_pos (by simp; omega), e, List.getD_cons_succ]
      · rw [if_neg h1, if_neg hb, if_neg (by simp; omega)]

/-- A run of writes inside an address space lists nothing outside it. -/
theorem Memory.writeBytes_within {m : Memory} {size : Nat} (h : m.within size) {a : Nat}
    {vs : List Byte} (ha : a + vs.length ≤ size) : (m.writeBytes a vs).within size := by
  induction vs generalizing m a with
  | nil => exact h
  | cons v vs ih =>
    simp only [List.length_cons] at ha
    exact ih (Memory.write_within h (by omega) v) (by omega)

end Sys2Proof.Machine
end

