-- ==== Sys2Proof/Laws/State.lean ====
section
/-!
SUPPORT. One lemma per field per update of State, so that no later proof unfolds a record update; and the
readings of the accessors over them.
-/

namespace Sys2Proof.Machine

variable (s : State)

/-! #### setV -/

@[simp] theorem State.setV_v (r : RegIdx) (b : Byte) : (s.setV r b).v = s.v.set r.val b r.isLt := rfl
@[simp] theorem State.setV_i (r : RegIdx) (b : Byte) : (s.setV r b).i = s.i := rfl
@[simp] theorem State.setV_pc (r : RegIdx) (b : Byte) : (s.setV r b).pc = s.pc := rfl
@[simp] theorem State.setV_stack (r : RegIdx) (b : Byte) : (s.setV r b).stack = s.stack := rfl
@[simp] theorem State.setV_mem (r : RegIdx) (b : Byte) : (s.setV r b).mem = s.mem := rfl
@[simp] theorem State.setV_disp (r : RegIdx) (b : Byte) : (s.setV r b).disp = s.disp := rfl
@[simp] theorem State.setV_dt (r : RegIdx) (b : Byte) : (s.setV r b).dt = s.dt := rfl
@[simp] theorem State.setV_st (r : RegIdx) (b : Byte) : (s.setV r b).st = s.st := rfl
@[simp] theorem State.setV_status (r : RegIdx) (b : Byte) : (s.setV r b).status = s.status := rfl
@[simp] theorem State.setV_setInFlight (r : RegIdx) (b : Byte) : (s.setV r b).setInFlight = s.setInFlight := rfl
@[simp] theorem State.setV_out (r : RegIdx) (b : Byte) : (s.setV r b).out = s.out := rfl
@[simp] theorem State.setV_cfg (r : RegIdx) (b : Byte) : (s.setV r b).cfg = s.cfg := rfl
@[simp] theorem State.setV_env (r : RegIdx) (b : Byte) : (s.setV r b).env = s.env := rfl

/-! #### setI -/

@[simp] theorem State.setI_v (n : Nat) : (s.setI n).v = s.v := rfl
@[simp] theorem State.setI_i (n : Nat) : (s.setI n).i = BitVec.ofNat 16 n := rfl
@[simp] theorem State.setI_pc (n : Nat) : (s.setI n).pc = s.pc := rfl
@[simp] theorem State.setI_stack (n : Nat) : (s.setI n).stack = s.stack := rfl
@[simp] theorem State.setI_mem (n : Nat) : (s.setI n).mem = s.mem := rfl
@[simp] theorem State.setI_disp (n : Nat) : (s.setI n).disp = s.disp := rfl
@[simp] theorem State.setI_dt (n : Nat) : (s.setI n).dt = s.dt := rfl
@[simp] theorem State.setI_st (n : Nat) : (s.setI n).st = s.st := rfl
@[simp] theorem State.setI_status (n : Nat) : (s.setI n).status = s.status := rfl
@[simp] theorem State.setI_setInFlight (n : Nat) : (s.setI n).setInFlight = s.setInFlight := rfl
@[simp] theorem State.setI_out (n : Nat) : (s.setI n).out = s.out := rfl
@[simp] theorem State.setI_cfg (n : Nat) : (s.setI n).cfg = s.cfg := rfl
@[simp] theorem State.setI_env (n : Nat) : (s.setI n).env = s.env := rfl

/-! #### goto -/

@[simp] theorem State.goto_v (n : Nat) : (s.goto n).v = s.v := rfl
@[simp] theorem State.goto_i (n : Nat) : (s.goto n).i = s.i := rfl
@[simp] theorem State.goto_pc (n : Nat) : (s.goto n).pc = n := rfl
@[simp] theorem State.goto_stack (n : Nat) : (s.goto n).stack = s.stack := rfl
@[simp] theorem State.goto_mem (n : Nat) : (s.goto n).mem = s.mem := rfl
@[simp] theorem State.goto_disp (n : Nat) : (s.goto n).disp = s.disp := rfl
@[simp] theorem State.goto_dt (n : Nat) : (s.goto n).dt = s.dt := rfl
@[simp] theorem State.goto_st (n : Nat) : (s.goto n).st = s.st := rfl
@[simp] theorem State.goto_status (n : Nat) : (s.goto n).status = s.status := rfl
@[simp] theorem State.goto_setInFlight (n : Nat) : (s.goto n).setInFlight = s.setInFlight := rfl
@[simp] theorem State.goto_out (n : Nat) : (s.goto n).out = s.out := rfl
@[simp] theorem State.goto_cfg (n : Nat) : (s.goto n).cfg = s.cfg := rfl
@[simp] theorem State.goto_env (n : Nat) : (s.goto n).env = s.env := rfl

/-! #### advance -/

@[simp] theorem State.advance_v : (s.advance).v = s.v := rfl
@[simp] theorem State.advance_i : (s.advance).i = s.i := rfl
@[simp] theorem State.advance_pc : (s.advance).pc = s.pc + 2 := rfl
@[simp] theorem State.advance_stack : (s.advance).stack = s.stack := rfl
@[simp] theorem State.advance_mem : (s.advance).mem = s.mem := rfl
@[simp] theorem State.advance_disp : (s.advance).disp = s.disp := rfl
@[simp] theorem State.advance_dt : (s.advance).dt = s.dt := rfl
@[simp] theorem State.advance_st : (s.advance).st = s.st := rfl
@[simp] theorem State.advance_status : (s.advance).status = s.status := rfl
@[simp] theorem State.advance_setInFlight : (s.advance).setInFlight = s.setInFlight := rfl
@[simp] theorem State.advance_out : (s.advance).out = s.out := rfl
@[simp] theorem State.advance_cfg : (s.advance).cfg = s.cfg := rfl
@[simp] theorem State.advance_env : (s.advance).env = s.env := rfl

/-! #### rewind -/

@[simp] theorem State.rewind_v : (s.rewind).v = s.v := rfl
@[simp] theorem State.rewind_i : (s.rewind).i = s.i := rfl
@[simp] theorem State.rewind_pc : (s.rewind).pc = s.pc - 2 := rfl
@[simp] theorem State.rewind_stack : (s.rewind).stack = s.stack := rfl
@[simp] theorem State.rewind_mem : (s.rewind).mem = s.mem := rfl
@[simp] theorem State.rewind_disp : (s.rewind).disp = s.disp := rfl
@[simp] theorem State.rewind_dt : (s.rewind).dt = s.dt := rfl
@[simp] theorem State.rewind_st : (s.rewind).st = s.st := rfl
@[simp] theorem State.rewind_status : (s.rewind).status = s.status := rfl
@[simp] theorem State.rewind_setInFlight : (s.rewind).setInFlight = s.setInFlight := rfl
@[simp] theorem State.rewind_out : (s.rewind).out = s.out := rfl
@[simp] theorem State.rewind_cfg : (s.rewind).cfg = s.cfg := rfl
@[simp] theorem State.rewind_env : (s.rewind).env = s.env := rfl

/-! #### raise -/

@[simp] theorem State.raise_v (f : FaultReason) (n a : Nat) : (s.raise f n a).v = s.v := rfl
@[simp] theorem State.raise_i (f : FaultReason) (n a : Nat) : (s.raise f n a).i = s.i := rfl
@[simp] theorem State.raise_pc (f : FaultReason) (n a : Nat) : (s.raise f n a).pc = s.pc := rfl
@[simp] theorem State.raise_stack (f : FaultReason) (n a : Nat) : (s.raise f n a).stack = s.stack := rfl
@[simp] theorem State.raise_mem (f : FaultReason) (n a : Nat) : (s.raise f n a).mem = s.mem := rfl
@[simp] theorem State.raise_disp (f : FaultReason) (n a : Nat) : (s.raise f n a).disp = s.disp := rfl
@[simp] theorem State.raise_dt (f : FaultReason) (n a : Nat) : (s.raise f n a).dt = s.dt := rfl
@[simp] theorem State.raise_st (f : FaultReason) (n a : Nat) : (s.raise f n a).st = s.st := rfl
@[simp] theorem State.raise_status (f : FaultReason) (n a : Nat) : (s.raise f n a).status = .faulted f n a := rfl
@[simp] theorem State.raise_setInFlight (f : FaultReason) (n a : Nat) : (s.raise f n a).setInFlight = s.setInFlight := rfl
@[simp] theorem State.raise_out (f : FaultReason) (n a : Nat) : (s.raise f n a).out = s.out := rfl
@[simp] theorem State.raise_cfg (f : FaultReason) (n a : Nat) : (s.raise f n a).cfg = s.cfg := rfl
@[simp] theorem State.raise_env (f : FaultReason) (n a : Nat) : (s.raise f n a).env = s.env := rfl

/-! #### halt -/

@[simp] theorem State.halt_v : (s.halt).v = s.v := rfl
@[simp] theorem State.halt_i : (s.halt).i = s.i := rfl
@[simp] theorem State.halt_pc : (s.halt).pc = s.pc := rfl
@[simp] theorem State.halt_stack : (s.halt).stack = s.stack := rfl
@[simp] theorem State.halt_mem : (s.halt).mem = s.mem := rfl
@[simp] theorem State.halt_disp : (s.halt).disp = s.disp := rfl
@[simp] theorem State.halt_dt : (s.halt).dt = s.dt := rfl
@[simp] theorem State.halt_st : (s.halt).st = s.st := rfl
@[simp] theorem State.halt_status : (s.halt).status = .halted := rfl
@[simp] theorem State.halt_setInFlight : (s.halt).setInFlight = s.setInFlight := rfl
@[simp] theorem State.halt_out : (s.halt).out = s.out := rfl
@[simp] theorem State.halt_cfg : (s.halt).cfg = s.cfg := rfl
@[simp] theorem State.halt_env : (s.halt).env = s.env := rfl

/-! #### push -/

@[simp] theorem State.push_v (a : Nat) : (s.push a).v = s.v := rfl
@[simp] theorem State.push_i (a : Nat) : (s.push a).i = s.i := rfl
@[simp] theorem State.push_pc (a : Nat) : (s.push a).pc = s.pc := rfl
@[simp] theorem State.push_stack (a : Nat) : (s.push a).stack = s.stack ++ [a] := rfl
@[simp] theorem State.push_mem (a : Nat) : (s.push a).mem = s.mem := rfl
@[simp] theorem State.push_disp (a : Nat) : (s.push a).disp = s.disp := rfl
@[simp] theorem State.push_dt (a : Nat) : (s.push a).dt = s.dt := rfl
@[simp] theorem State.push_st (a : Nat) : (s.push a).st = s.st := rfl
@[simp] theorem State.push_status (a : Nat) : (s.push a).status = s.status := rfl
@[simp] theorem State.push_setInFlight (a : Nat) : (s.push a).setInFlight = s.setInFlight := rfl
@[simp] theorem State.push_out (a : Nat) : (s.push a).out = s.out := rfl
@[simp] theorem State.push_cfg (a : Nat) : (s.push a).cfg = s.cfg := rfl
@[simp] theorem State.push_env (a : Nat) : (s.push a).env = s.env := rfl

/-! #### dropTop -/

@[simp] theorem State.dropTop_v : (s.dropTop).v = s.v := rfl
@[simp] theorem State.dropTop_i : (s.dropTop).i = s.i := rfl
@[simp] theorem State.dropTop_pc : (s.dropTop).pc = s.pc := rfl
@[simp] theorem State.dropTop_stack : (s.dropTop).stack = s.stack.dropLast := rfl
@[simp] theorem State.dropTop_mem : (s.dropTop).mem = s.mem := rfl
@[simp] theorem State.dropTop_disp : (s.dropTop).disp = s.disp := rfl
@[simp] theorem State.dropTop_dt : (s.dropTop).dt = s.dt := rfl
@[simp] theorem State.dropTop_st : (s.dropTop).st = s.st := rfl
@[simp] theorem State.dropTop_status : (s.dropTop).status = s.status := rfl
@[simp] theorem State.dropTop_setInFlight : (s.dropTop).setInFlight = s.setInFlight := rfl
@[simp] theorem State.dropTop_out : (s.dropTop).out = s.out := rfl
@[simp] theorem State.dropTop_cfg : (s.dropTop).cfg = s.cfg := rfl
@[simp] theorem State.dropTop_env : (s.dropTop).env = s.env := rfl

/-! #### writeByte -/

@[simp] theorem State.writeByte_v (a : Nat) (b : Byte) : (s.writeByte a b).v = s.v := rfl
@[simp] theorem State.writeByte_i (a : Nat) (b : Byte) : (s.writeByte a b).i = s.i := rfl
@[simp] theorem State.writeByte_pc (a : Nat) (b : Byte) : (s.writeByte a b).pc = s.pc := rfl
@[simp] theorem State.writeByte_stack (a : Nat) (b : Byte) : (s.writeByte a b).stack = s.stack := rfl
@[simp] theorem State.writeByte_mem (a : Nat) (b : Byte) : (s.writeByte a b).mem = s.mem.write a b := rfl
@[simp] theorem State.writeByte_disp (a : Nat) (b : Byte) : (s.writeByte a b).disp = s.disp := rfl
@[simp] theorem State.writeByte_dt (a : Nat) (b : Byte) : (s.writeByte a b).dt = s.dt := rfl
@[simp] theorem State.writeByte_st (a : Nat) (b : Byte) : (s.writeByte a b).st = s.st := rfl
@[simp] theorem State.writeByte_status (a : Nat) (b : Byte) : (s.writeByte a b).status = s.status := rfl
@[simp] theorem State.writeByte_setInFlight (a : Nat) (b : Byte) : (s.writeByte a b).setInFlight = s.setInFlight := rfl
@[simp] theorem State.writeByte_out (a : Nat) (b : Byte) : (s.writeByte a b).out = s.out := rfl
@[simp] theorem State.writeByte_cfg (a : Nat) (b : Byte) : (s.writeByte a b).cfg = s.cfg := rfl
@[simp] theorem State.writeByte_env (a : Nat) (b : Byte) : (s.writeByte a b).env = s.env := rfl

/-! #### setDisp -/

@[simp] theorem State.setDisp_v (g : Grid) : (s.setDisp g).v = s.v := rfl
@[simp] theorem State.setDisp_i (g : Grid) : (s.setDisp g).i = s.i := rfl
@[simp] theorem State.setDisp_pc (g : Grid) : (s.setDisp g).pc = s.pc := rfl
@[simp] theorem State.setDisp_stack (g : Grid) : (s.setDisp g).stack = s.stack := rfl
@[simp] theorem State.setDisp_mem (g : Grid) : (s.setDisp g).mem = s.mem := rfl
@[simp] theorem State.setDisp_disp (g : Grid) : (s.setDisp g).disp = g := rfl
@[simp] theorem State.setDisp_dt (g : Grid) : (s.setDisp g).dt = s.dt := rfl
@[simp] theorem State.setDisp_st (g : Grid) : (s.setDisp g).st = s.st := rfl
@[simp] theorem State.setDisp_status (g : Grid) : (s.setDisp g).status = s.status := rfl
@[simp] theorem State.setDisp_setInFlight (g : Grid) : (s.setDisp g).setInFlight = s.setInFlight := rfl
@[simp] theorem State.setDisp_out (g : Grid) : (s.setDisp g).out = s.out := rfl
@[simp] theorem State.setDisp_cfg (g : Grid) : (s.setDisp g).cfg = s.cfg := rfl
@[simp] theorem State.setDisp_env (g : Grid) : (s.setDisp g).env = s.env := rfl

/-! #### present -/

@[simp] theorem State.present_v : (s.present).v = s.v := rfl
@[simp] theorem State.present_i : (s.present).i = s.i := rfl
@[simp] theorem State.present_pc : (s.present).pc = s.pc := rfl
@[simp] theorem State.present_stack : (s.present).stack = s.stack := rfl
@[simp] theorem State.present_mem : (s.present).mem = s.mem := rfl
@[simp] theorem State.present_disp : (s.present).disp = s.disp := rfl
@[simp] theorem State.present_dt : (s.present).dt = s.dt := rfl
@[simp] theorem State.present_st : (s.present).st = s.st := rfl
@[simp] theorem State.present_status : (s.present).status = s.status := rfl
@[simp] theorem State.present_setInFlight : (s.present).setInFlight = s.setInFlight := rfl
@[simp] theorem State.present_out : (s.present).out = s.out ++ [s.disp] := rfl
@[simp] theorem State.present_cfg : (s.present).cfg = s.cfg := rfl
@[simp] theorem State.present_env : (s.present).env = s.env := rfl

/-! #### afterHeld -/

@[simp] theorem State.afterHeld_v : (s.afterHeld).v = s.v := rfl
@[simp] theorem State.afterHeld_i : (s.afterHeld).i = s.i := rfl
@[simp] theorem State.afterHeld_pc : (s.afterHeld).pc = s.pc := rfl
@[simp] theorem State.afterHeld_stack : (s.afterHeld).stack = s.stack := rfl
@[simp] theorem State.afterHeld_mem : (s.afterHeld).mem = s.mem := rfl
@[simp] theorem State.afterHeld_disp : (s.afterHeld).disp = s.disp := rfl
@[simp] theorem State.afterHeld_dt : (s.afterHeld).dt = s.dt := rfl
@[simp] theorem State.afterHeld_st : (s.afterHeld).st = s.st := rfl
@[simp] theorem State.afterHeld_status : (s.afterHeld).status = s.status := rfl
@[simp] theorem State.afterHeld_setInFlight : (s.afterHeld).setInFlight = s.setInFlight := rfl
@[simp] theorem State.afterHeld_out : (s.afterHeld).out = s.out := rfl
@[simp] theorem State.afterHeld_cfg : (s.afterHeld).cfg = s.cfg := rfl
@[simp] theorem State.afterHeld_env : (s.afterHeld).env = { s.env with held := s.env.held.tail, queries := s.env.queries + 1 } := rfl

/-! #### afterFirst -/

@[simp] theorem State.afterFirst_v : (s.afterFirst).v = s.v := rfl
@[simp] theorem State.afterFirst_i : (s.afterFirst).i = s.i := rfl
@[simp] theorem State.afterFirst_pc : (s.afterFirst).pc = s.pc := rfl
@[simp] theorem State.afterFirst_stack : (s.afterFirst).stack = s.stack := rfl
@[simp] theorem State.afterFirst_mem : (s.afterFirst).mem = s.mem := rfl
@[simp] theorem State.afterFirst_disp : (s.afterFirst).disp = s.disp := rfl
@[simp] theorem State.afterFirst_dt : (s.afterFirst).dt = s.dt := rfl
@[simp] theorem State.afterFirst_st : (s.afterFirst).st = s.st := rfl
@[simp] theorem State.afterFirst_status : (s.afterFirst).status = s.status := rfl
@[simp] theorem State.afterFirst_setInFlight : (s.afterFirst).setInFlight = s.setInFlight := rfl
@[simp] theorem State.afterFirst_out : (s.afterFirst).out = s.out := rfl
@[simp] theorem State.afterFirst_cfg : (s.afterFirst).cfg = s.cfg := rfl
@[simp] theorem State.afterFirst_env : (s.afterFirst).env = { s.env with first := s.env.first.tail, queries := s.env.queries + 1 } := rfl

/-! #### afterRandom -/

@[simp] theorem State.afterRandom_v : (s.afterRandom).v = s.v := rfl
@[simp] theorem State.afterRandom_i : (s.afterRandom).i = s.i := rfl
@[simp] theorem State.afterRandom_pc : (s.afterRandom).pc = s.pc := rfl
@[simp] theorem State.afterRandom_stack : (s.afterRandom).stack = s.stack := rfl
@[simp] theorem State.afterRandom_mem : (s.afterRandom).mem = s.mem := rfl
@[simp] theorem State.afterRandom_disp : (s.afterRandom).disp = s.disp := rfl
@[simp] theorem State.afterRandom_dt : (s.afterRandom).dt = s.dt := rfl
@[simp] theorem State.afterRandom_st : (s.afterRandom).st = s.st := rfl
@[simp] theorem State.afterRandom_status : (s.afterRandom).status = s.status := rfl
@[simp] theorem State.afterRandom_setInFlight : (s.afterRandom).setInFlight = s.setInFlight := rfl
@[simp] theorem State.afterRandom_out : (s.afterRandom).out = s.out := rfl
@[simp] theorem State.afterRandom_cfg : (s.afterRandom).cfg = s.cfg := rfl
@[simp] theorem State.afterRandom_env : (s.afterRandom).env = { s.env with random := s.env.random.tail, queries := s.env.queries + 1 } := rfl

/-! #### afterTurn -/

@[simp] theorem State.afterTurn_v : (s.afterTurn).v = s.v := rfl
@[simp] theorem State.afterTurn_i : (s.afterTurn).i = s.i := rfl
@[simp] theorem State.afterTurn_pc : (s.afterTurn).pc = s.pc := rfl
@[simp] theorem State.afterTurn_stack : (s.afterTurn).stack = s.stack := rfl
@[simp] theorem State.afterTurn_mem : (s.afterTurn).mem = s.mem := rfl
@[simp] theorem State.afterTurn_disp : (s.afterTurn).disp = s.disp := rfl
@[simp] theorem State.afterTurn_dt : (s.afterTurn).dt = s.dt := rfl
@[simp] theorem State.afterTurn_st : (s.afterTurn).st = s.st := rfl
@[simp] theorem State.afterTurn_status : (s.afterTurn).status = s.status := rfl
@[simp] theorem State.afterTurn_setInFlight : (s.afterTurn).setInFlight = s.setInFlight := rfl
@[simp] theorem State.afterTurn_out : (s.afterTurn).out = s.out := rfl
@[simp] theorem State.afterTurn_cfg : (s.afterTurn).cfg = s.cfg := rfl
@[simp] theorem State.afterTurn_env : (s.afterTurn).env = { s.env with turns := s.env.turns.tail, moves := s.env.moves + 1 } := rfl

/-! #### setTimer and the timer operations -/

@[simp] theorem State.setTimer_v (t : TimerId) (u : TimerUnit) : (s.setTimer t u).v = s.v := by cases t <;> rfl
@[simp] theorem State.setTimer_i (t : TimerId) (u : TimerUnit) : (s.setTimer t u).i = s.i := by cases t <;> rfl
@[simp] theorem State.setTimer_pc (t : TimerId) (u : TimerUnit) : (s.setTimer t u).pc = s.pc := by cases t <;> rfl
@[simp] theorem State.setTimer_stack (t : TimerId) (u : TimerUnit) : (s.setTimer t u).stack = s.stack := by cases t <;> rfl
@[simp] theorem State.setTimer_mem (t : TimerId) (u : TimerUnit) : (s.setTimer t u).mem = s.mem := by cases t <;> rfl
@[simp] theorem State.setTimer_disp (t : TimerId) (u : TimerUnit) : (s.setTimer t u).disp = s.disp := by cases t <;> rfl
@[simp] theorem State.setTimer_status (t : TimerId) (u : TimerUnit) : (s.setTimer t u).status = s.status := by cases t <;> rfl
@[simp] theorem State.setTimer_setInFlight (t : TimerId) (u : TimerUnit) : (s.setTimer t u).setInFlight = s.setInFlight := by cases t <;> rfl
@[simp] theorem State.setTimer_out (t : TimerId) (u : TimerUnit) : (s.setTimer t u).out = s.out := by cases t <;> rfl
@[simp] theorem State.setTimer_cfg (t : TimerId) (u : TimerUnit) : (s.setTimer t u).cfg = s.cfg := by cases t <;> rfl
@[simp] theorem State.setTimer_env (t : TimerId) (u : TimerUnit) : (s.setTimer t u).env = s.env := by cases t <;> rfl

@[simp] theorem State.timer_dt : s.timer .dt = s.dt := rfl
@[simp] theorem State.timer_st : s.timer .st = s.st := rfl
@[simp] theorem State.setTimer_timer (t t' : TimerId) (u : TimerUnit) :
    (s.setTimer t u).timer t' = if t' = t then u else s.timer t' := by
  cases t <;> cases t' <;> rfl

/-! #### The two micro-steps of a timer set -/

@[simp] theorem State.beginTimerSet_v (t : TimerId) (b : Byte) : (s.beginTimerSet t b).v = s.v := by cases t <;> rfl
@[simp] theorem State.beginTimerSet_i (t : TimerId) (b : Byte) : (s.beginTimerSet t b).i = s.i := by cases t <;> rfl
@[simp] theorem State.beginTimerSet_pc (t : TimerId) (b : Byte) : (s.beginTimerSet t b).pc = s.pc := by cases t <;> rfl
@[simp] theorem State.beginTimerSet_stack (t : TimerId) (b : Byte) : (s.beginTimerSet t b).stack = s.stack := by cases t <;> rfl
@[simp] theorem State.beginTimerSet_mem (t : TimerId) (b : Byte) : (s.beginTimerSet t b).mem = s.mem := by cases t <;> rfl
@[simp] theorem State.beginTimerSet_disp (t : TimerId) (b : Byte) : (s.beginTimerSet t b).disp = s.disp := by cases t <;> rfl
@[simp] theorem State.beginTimerSet_status (t : TimerId) (b : Byte) : (s.beginTimerSet t b).status = s.status := by cases t <;> rfl
@[simp] theorem State.beginTimerSet_out (t : TimerId) (b : Byte) : (s.beginTimerSet t b).out = s.out := by cases t <;> rfl
@[simp] theorem State.beginTimerSet_cfg (t : TimerId) (b : Byte) : (s.beginTimerSet t b).cfg = s.cfg := by cases t <;> rfl
@[simp] theorem State.beginTimerSet_env (t : TimerId) (b : Byte) : (s.beginTimerSet t b).env = s.env := by cases t <;> rfl
@[simp] theorem State.beginTimerSet_setInFlight (t : TimerId) (b : Byte) : (s.beginTimerSet t b).setInFlight = some (t, b) := rfl
@[simp] theorem State.beginTimerSet_timer (t t' : TimerId) (b : Byte) :
    (s.beginTimerSet t b).timer t' = if t' = t then { s.timer t with c := 0 } else s.timer t' := by
  cases t <;> cases t' <;> rfl

@[simp] theorem State.endTimerSet_v (t : TimerId) (b : Byte) : (s.endTimerSet t b).v = s.v := by cases t <;> rfl
@[simp] theorem State.endTimerSet_i (t : TimerId) (b : Byte) : (s.endTimerSet t b).i = s.i := by cases t <;> rfl
@[simp] theorem State.endTimerSet_pc (t : TimerId) (b : Byte) : (s.endTimerSet t b).pc = s.pc := by cases t <;> rfl
@[simp] theorem State.endTimerSet_stack (t : TimerId) (b : Byte) : (s.endTimerSet t b).stack = s.stack := by cases t <;> rfl
@[simp] theorem State.endTimerSet_mem (t : TimerId) (b : Byte) : (s.endTimerSet t b).mem = s.mem := by cases t <;> rfl
@[simp] theorem State.endTimerSet_disp (t : TimerId) (b : Byte) : (s.endTimerSet t b).disp = s.disp := by cases t <;> rfl
@[simp] theorem State.endTimerSet_status (t : TimerId) (b : Byte) : (s.endTimerSet t b).status = s.status := by cases t <;> rfl
@[simp] theorem State.endTimerSet_out (t : TimerId) (b : Byte) : (s.endTimerSet t b).out = s.out := by cases t <;> rfl
@[simp] theorem State.endTimerSet_cfg (t : TimerId) (b : Byte) : (s.endTimerSet t b).cfg = s.cfg := by cases t <;> rfl
@[simp] theorem State.endTimerSet_env (t : TimerId) (b : Byte) : (s.endTimerSet t b).env = s.env := by cases t <;> rfl
@[simp] theorem State.endTimerSet_setInFlight (t : TimerId) (b : Byte) : (s.endTimerSet t b).setInFlight = none := rfl
@[simp] theorem State.endTimerSet_timer (t t' : TimerId) (b : Byte) :
    (s.endTimerSet t b).timer t' =
      if t' = t then { s.timer t with c := (s.timer t).c + b.toNat } else s.timer t' := by
  cases t <;> cases t' <;> rfl

/-- A register as it reads after a register write. -/
@[simp] theorem State.setV_V (r r' : RegIdx) (b : Byte) :
    (s.setV r b).V r' = if r' = r then b else s.V r' := by
  simp only [State.V, State.setV, Vector.get_eq_getElem, Vector.getElem_set, Fin.ext_iff, eq_comm]

/-- A register reads the same in two states with the same register file. -/
theorem State.V_congr {s t : State} (h : t.v = s.v) (r : RegIdx) : t.V r = s.V r := by
  simp [State.V, h]

/-! #### Registers and timers under the updates that do not touch them -/

@[simp] theorem State.setI_V (n : Nat) (r : RegIdx) : (s.setI n).V r = s.V r := rfl
@[simp] theorem State.setI_timer (n : Nat) (t : TimerId) : (s.setI n).timer t = s.timer t := rfl
@[simp] theorem State.goto_V (n : Nat) (r : RegIdx) : (s.goto n).V r = s.V r := rfl
@[simp] theorem State.goto_timer (n : Nat) (t : TimerId) : (s.goto n).timer t = s.timer t := rfl
@[simp] theorem State.advance_V (r : RegIdx) : (s.advance).V r = s.V r := rfl
@[simp] theorem State.advance_timer (t : TimerId) : (s.advance).timer t = s.timer t := rfl
@[simp] theorem State.rewind_V (r : RegIdx) : (s.rewind).V r = s.V r := rfl
@[simp] theorem State.rewind_timer (t : TimerId) : (s.rewind).timer t = s.timer t := rfl
@[simp] theorem State.raise_V (f : FaultReason) (n a : Nat) (r : RegIdx) : (s.raise f n a).V r = s.V r := rfl
@[simp] theorem State.raise_timer (f : FaultReason) (n a : Nat) (t : TimerId) : (s.raise f n a).timer t = s.timer t := rfl
@[simp] theorem State.halt_V (r : RegIdx) : (s.halt).V r = s.V r := rfl
@[simp] theorem State.halt_timer (t : TimerId) : (s.halt).timer t = s.timer t := rfl
@[simp] theorem State.push_V (a : Nat) (r : RegIdx) : (s.push a).V r = s.V r := rfl
@[simp] theorem State.push_timer (a : Nat) (t : TimerId) : (s.push a).timer t = s.timer t := rfl
@[simp] theorem State.dropTop_V (r : RegIdx) : (s.dropTop).V r = s.V r := rfl
@[simp] theorem State.dropTop_timer (t : TimerId) : (s.dropTop).timer t = s.timer t := rfl
@[simp] theorem State.writeByte_V (a : Nat) (b : Byte) (r : RegIdx) : (s.writeByte a b).V r = s.V r := rfl
@[simp] theorem State.writeByte_timer (a : Nat) (b : Byte) (t : TimerId) : (s.writeByte a b).timer t = s.timer t := rfl
@[simp] theorem State.setDisp_V (g : Grid) (r : RegIdx) : (s.setDisp g).V r = s.V r := rfl
@[simp] theorem State.setDisp_timer (g : Grid) (t : TimerId) : (s.setDisp g).timer t = s.timer t := rfl
@[simp] theorem State.present_V (r : RegIdx) : (s.present).V r = s.V r := rfl
@[simp] theorem State.present_timer (t : TimerId) : (s.present).timer t = s.timer t := rfl
@[simp] theorem State.afterHeld_V (r : RegIdx) : (s.afterHeld).V r = s.V r := rfl
@[simp] theorem State.afterHeld_timer (t : TimerId) : (s.afterHeld).timer t = s.timer t := rfl
@[simp] theorem State.afterFirst_V (r : RegIdx) : (s.afterFirst).V r = s.V r := rfl
@[simp] theorem State.afterFirst_timer (t : TimerId) : (s.afterFirst).timer t = s.timer t := rfl
@[simp] theorem State.afterRandom_V (r : RegIdx) : (s.afterRandom).V r = s.V r := rfl
@[simp] theorem State.afterRandom_timer (t : TimerId) : (s.afterRandom).timer t = s.timer t := rfl
@[simp] theorem State.afterTurn_V (r : RegIdx) : (s.afterTurn).V r = s.V r := rfl
@[simp] theorem State.afterTurn_timer (t : TimerId) : (s.afterTurn).timer t = s.timer t := rfl
@[simp] theorem State.setV_timer (r : RegIdx) (b : Byte) (t : TimerId) : (s.setV r b).timer t = s.timer t := rfl
@[simp] theorem State.setTimer_V (t : TimerId) (u : TimerUnit) (r : RegIdx) : (s.setTimer t u).V r = s.V r := by cases t <;> rfl

/-- Reading a byte reads memory. -/
@[simp] theorem State.readByte_eq (a : Nat) : s.readByte a = s.mem.read a := rfl

/-- The bounds check is the comparison with `MEM_SIZE`. -/
@[simp] theorem State.inBounds_eq (a : Nat) : s.inBounds a = decide (a < s.cfg.memSize) := rfl

/-- A skip changes only pc. -/
@[simp] theorem State.skipIf_eq (c : Bool) : s.skipIf c = s.goto (if c then s.pc + 2 else s.pc) := by
  rfl

end Sys2Proof.Machine
end

