-- ==== Sys2Proof/Laws/Ops.lean ====
section
/-!
SUPPORT. One lemma per shared operation that says everything it does; the provers cite these instead of
unfolding the operations.
-/

namespace Sys2Proof.Machine

/-! ### Result and flag -/

/-- Every register after `WriteResultAndFlag` (R131). -/
theorem State.writeResultAndFlag_V (s : State) (x r : RegIdx) (b : Byte) (f : Bool) :
    (s.writeResultAndFlag x b f).V r =
      if r = x ∧ (x ≠ vF ∨ s.cfg.flagOrder = .resultLast) then b
      else if r = vF then flagByte f else s.V r := by
  unfold State.writeResultAndFlag
  cases s.cfg.flagOrder <;> simp only [State.setV_V]
  · by_cases h1 : r = vF <;> by_cases h2 : r = x <;> simp_all
  · by_cases h1 : r = vF <;> by_cases h2 : r = x <;> simp_all

/-- `WriteResultAndFlag` writes registers and nothing else. -/
theorem State.writeResultAndFlag_eq (s : State) (x : RegIdx) (b : Byte) (f : Bool) :
    s.writeResultAndFlag x b f = { s with v := (s.writeResultAndFlag x b f).v } := by
  unfold State.writeResultAndFlag
  cases s.cfg.flagOrder <;> rfl

/-! ### Memory -/

/-- The fetched word, when both its bytes lie in memory (R53). -/
theorem State.fetch_eq (s : State) :
    s.fetch = if s.pc + 1 < s.cfg.memSize then
      some (wordOfBytes (s.mem.read s.pc) (s.mem.read (s.pc + 1))) else none := by
  simp [State.fetch]

/-- `MemRead` of n bytes: all of them, or the first address out of bounds (R54). -/
theorem State.readBytes_eq (s : State) (a n : Nat) :
    s.readBytes a n =
      if n = 0 ∨ a + n ≤ s.cfg.memSize then .ok ((List.range n).map fun k => s.mem.read (a + k))
      else .error (max a s.cfg.memSize) := by
  induction n generalizing a with
  | zero => simp [State.readBytes]
  | succ n ih =>
    simp only [State.readBytes, State.inBounds_eq, decide_eq_true_eq, ih, State.readByte_eq]
    by_cases h : a + (n + 1) ≤ s.cfg.memSize
    · rw [if_pos (by omega), if_pos (by omega), if_pos (by omega)]
      simp only [List.range_succ_eq_map, List.map_cons, List.map_map, Nat.add_zero]
      congr 2
      exact List.map_congr_left fun k _ => by simp only [Function.comp]; congr 1; omega
    · rw [if_neg (c := _ ∨ a + (n + 1) ≤ _) (by omega)]
      by_cases h' : a < s.cfg.memSize
      · rw [if_pos h', if_neg (by omega)]
        simp only [show max (a + 1) s.cfg.memSize = max a s.cfg.memSize by omega]
      · rw [if_neg h']
        congr 1
        omega

/-- A store of bytes that lie in memory writes them and changes nothing else. -/
theorem State.storeBytes_ok {s : State} {a : Nat} {bs : List Byte}
    (h : bs = [] ∨ a + bs.length ≤ s.cfg.memSize) :
    s.storeBytes a bs = { s with mem := s.mem.writeBytes a bs } := by
  induction bs generalizing s a with
  | nil => rfl
  | cons b bs ih =>
    simp only [List.length_cons, reduceCtorEq, false_or] at h
    simp only [State.storeBytes, State.inBounds_eq, decide_eq_true_eq]
    rw [if_pos (by omega), ih (.inr (by simp only [State.writeByte_cfg]; omega))]
    rfl

/-- A store that runs past the end of memory writes the bytes that fit and then faults at the first
address out of bounds (R55). -/
theorem State.storeBytes_fault {s : State} {a : Nat} {bs : List Byte}
    (hne : bs ≠ []) (h : s.cfg.memSize < a + bs.length) :
    s.storeBytes a bs =
      State.raise { s with mem := s.mem.writeBytes a (bs.take (s.cfg.memSize - a)) }
        .memWriteOutOfBounds (max a s.cfg.memSize) s.instrAddr := by
  induction bs generalizing s a with
  | nil => exact absurd rfl hne
  | cons b bs ih =>
    simp only [List.length_cons] at h
    simp only [State.storeBytes, State.inBounds_eq, decide_eq_true_eq]
    by_cases ha : a < s.cfg.memSize
    · have e : s.cfg.memSize - a = (s.cfg.memSize - (a + 1)) + 1 := by omega
      have hne' : bs ≠ [] := by rintro rfl; simp at h; omega
      rw [if_pos ha, ih hne' (by simp only [State.writeByte_cfg]; omega), e]
      simp only [List.take_succ_cons, Memory.writeBytes, State.writeByte_cfg,
        show max (a + 1) s.cfg.memSize = max a s.cfg.memSize by omega]
      rfl
    · rw [if_neg ha, show s.cfg.memSize - a = 0 by omega, show max a s.cfg.memSize = a by omega]
      rfl

/-- Loading a block changes registers and the status, nothing else. -/
theorem State.loadBlock_frame (s : State) (a : Nat) (rs : List RegIdx) :
    s.loadBlock a rs = { s with v := (s.loadBlock a rs).v, status := (s.loadBlock a rs).status } := by
  induction rs generalizing s a with
  | nil => rfl
  | cons r rs ih =>
    simp only [State.loadBlock]
    split
    · rw [ih]; rfl
    · rfl

/-- A block that lies in memory loads without a fault. -/
theorem State.loadBlock_status {s : State} {a : Nat} {rs : List RegIdx}
    (h : rs = [] ∨ a + rs.length ≤ s.cfg.memSize) : (s.loadBlock a rs).status = s.status := by
  induction rs generalizing s a with
  | nil => rfl
  | cons r rs ih =>
    simp only [List.length_cons, reduceCtorEq, false_or] at h
    simp only [State.loadBlock, State.inBounds_eq, decide_eq_true_eq]
    rw [if_pos (by omega), ih (.inr (by simp only [State.setV_cfg]; omega))]
    rfl

/-- A register that is not in the block keeps its value. -/
theorem State.loadBlock_V_other {s : State} {a : Nat} {rs : List RegIdx} {r : RegIdx} (h : r ∉ rs) :
    (s.loadBlock a rs).V r = s.V r := by
  induction rs generalizing s a with
  | nil => rfl
  | cons q rs ih =>
    simp only [List.mem_cons, not_or] at h
    simp only [State.loadBlock]
    split
    · rw [ih h.2, State.setV_V, if_neg h.1]
    · rfl

/-- The k-th register of a block without repeats gets the k-th byte. -/
theorem State.loadBlock_V {s : State} {a : Nat} {rs : List RegIdx} (hd : rs.Nodup)
    (h : a + rs.length ≤ s.cfg.memSize) {k : Nat} (hk : k < rs.length) :
    (s.loadBlock a rs).V rs[k] = s.mem.read (a + k) := by
  induction rs generalizing s a k with
  | nil => simp at hk
  | cons q rs ih =>
    rw [List.nodup_cons] at hd
    simp only [List.length_cons] at h hk
    simp only [State.loadBlock, State.inBounds_eq, decide_eq_true_eq]
    rw [if_pos (by omega)]
    cases k with
    | zero => rw [List.getElem_cons_zero, State.loadBlock_V_other hd.1, State.setV_V]; simp
    | succ k =>
      rw [List.getElem_cons_succ, ih hd.2 (by simp only [State.setV_cfg]; omega) (by omega)]
      simp only [State.setV_mem]
      congr 1
      omega

/-! ### The register block -/

@[simp] theorem regsUpTo_length (x : RegIdx) : (regsUpTo x).length = x.val + 1 := by
  simp [regsUpTo, allRegs]; omega

theorem regsUpTo_nodup (x : RegIdx) : (regsUpTo x).Nodup :=
  List.Sublist.nodup (List.take_sublist _ _) (by decide)

theorem regsUpTo_getElem (x : RegIdx) (k : Nat) (h : k < (regsUpTo x).length) :
    (regsUpTo x)[k] = ⟨k, by simp at h; omega⟩ := by
  have hk : k < 16 := by simp at h; omega
  simp only [regsUpTo, List.getElem_take]
  exact (by decide : ∀ j : Fin 16, allRegs[j.val] = j) ⟨k, hk⟩

theorem mem_regsUpTo (x r : RegIdx) : r ∈ regsUpTo x ↔ r ≤ x :=
  (by decide : ∀ x r : Fin 16, r ∈ regsUpTo x ↔ r ≤ x) x r

/-! ### Timers -/

/-- A tick never touches the other fields than it must: the write decrements the latched value, the read
latches, stops or (fused) decrements (R233). -/
theorem TimerUnit.tick_cases {u u' : TimerUnit} {cfg : Config} (h : u.tick cfg = some u') :
    (∃ r, u.latch = some r ∧ u' = { u with c := r - 1, latch := none }) ∨
    (u.latch = none ∧ u.stopped = false ∧
      (cfg.timerTerminal ≤ u.c ∧ u' = { u with stopped := true } ∨
       u.c < cfg.timerTerminal ∧
        (cfg.tickAtomic = true ∧ u' = { u with c := u.c - 1 } ∨
         cfg.tickAtomic = false ∧ u' = { u with latch := some u.c }))) := by
  unfold TimerUnit.tick tickDown at h
  split at h
  · rename_i r hr
    exact .inl ⟨r, hr, by simpa using h.symm⟩
  · rename_i hr
    refine .inr ⟨hr, ?_⟩
    split at h
    · exact absurd h (by simp)
    · rename_i hs
      refine ⟨by simpa using hs, ?_⟩
      split at h
      · rename_i hc
        exact .inl ⟨hc, by simpa using h.symm⟩
      · rename_i hc
        refine .inr ⟨by omega, ?_⟩
        split at h
        · rename_i ha
          exact .inl ⟨ha, by simpa using h.symm⟩
        · rename_i ha
          exact .inr ⟨by simpa using ha, by simpa using h.symm⟩

/-- A unit has a micro-step unless it is stopped with nothing to write back. -/
theorem TimerUnit.tick_isSome (u : TimerUnit) (cfg : Config) :
    (u.tick cfg).isSome = (u.latch.isSome || !u.stopped) := by
  unfold TimerUnit.tick
  cases u.latch <;> cases u.stopped <;> simp
  split <;> [rfl; (split <;> rfl)]

end Sys2Proof.Machine
end

