-- ==== Sys2Proof/Laws/PerInstr.lean ====
section
/-!
SUPPORT. Facts made per instruction, about the instruction as syntax. Family TableRow: the word of an
instruction lies in the row of spec/opcode_table.json that the instruction stands for.
-/

namespace Sys2Proof.Laws.TableRow

/-- The word of an instruction has the fixed bits of its row, which is a row of the table (R75). -/
def Statement (i : Instr) : Prop := i.row ∈ opcodeTable ∧ rowMatches (encode i) i.row = true

/-- A row found in the table is one of its rows. -/
theorem inTable (row : OpcodeRow) (h : opcodeTable.elem row = true) : row ∈ opcodeTable :=
  List.elem_iff.mp h

/-- A field under all-ones keeps its value. -/
theorem and_ones4 (f : BitVec 4) : f &&& 0xF#4 = f := BitVec.and_allOnes

/-- A byte under all-ones keeps its value. -/
theorem and_ones8 (b : BitVec 8) : b &&& 0xFF#8 = b := BitVec.and_allOnes

/-- Format A: the mask keeps the family. -/
theorem rowMatches_encodeA (f : BitVec 4) (n : Nat) :
    rowMatches (encodeA f n) ((0xF#4 ++ 0#12 : Word), (f ++ 0#12 : Word)) = true := by
  unfold rowMatches encodeA
  rw [BitVec.and_append, and_ones4]
  simp

/-- Format XK: the mask keeps the family. -/
theorem rowMatches_encodeXK (f : BitVec 4) (x : RegIdx) (nn : Byte) :
    rowMatches (encodeXK f x nn) ((0xF#4 ++ 0#4 ++ 0#8 : Word), (f ++ 0#4 ++ 0#8 : Word)) = true := by
  unfold rowMatches encodeXK
  rw [BitVec.and_append, BitVec.and_append, and_ones4]
  simp

/-- Format XS: the mask keeps the family and the sub-opcode byte. -/
theorem rowMatches_encodeXS (f : BitVec 4) (x : RegIdx) (sub : Byte) :
    rowMatches (encodeXK f x sub) ((0xF#4 ++ 0#4 ++ 0xFF#8 : Word), (f ++ 0#4 ++ sub : Word)) = true := by
  unfold rowMatches encodeXK
  rw [BitVec.and_append, BitVec.and_append, and_ones4, and_ones8]
  simp

/-- Format XY: the mask keeps the family and the low nibble. -/
theorem rowMatches_encodeXY (f : BitVec 4) (x y : RegIdx) (n : BitVec 4) :
    rowMatches (encodeXYN f x y n)
      ((0xF#4 ++ 0#4 ++ 0#4 ++ 0xF#4 : Word), (f ++ 0#4 ++ 0#4 ++ n : Word)) = true := by
  unfold rowMatches encodeXYN
  rw [BitVec.and_append, BitVec.and_append, BitVec.and_append, and_ones4, and_ones4]
  simp

/-- Format XYN: the mask keeps the family. -/
theorem rowMatches_encodeXYN (f : BitVec 4) (x y : RegIdx) (n : BitVec 4) :
    rowMatches (encodeXYN f x y n)
      ((0xF#4 ++ 0#4 ++ 0#4 ++ 0#4 : Word), (f ++ 0#4 ++ 0#4 ++ 0#4 : Word)) = true := by
  unfold rowMatches encodeXYN
  rw [BitVec.and_append, BitVec.and_append, BitVec.and_append, and_ones4]
  simp

theorem cls : Statement (.cls) := ⟨inTable _ rfl, by decide⟩
theorem ret : Statement (.ret) := ⟨inTable _ rfl, by decide⟩
theorem jp (nnn : Nat) : Statement (.jp nnn) := ⟨inTable _ rfl, rowMatches_encodeA _ _⟩
theorem call (nnn : Nat) : Statement (.call nnn) := ⟨inTable _ rfl, rowMatches_encodeA _ _⟩
theorem seByte (x : RegIdx) (nn : Byte) : Statement (.seByte x nn) := ⟨inTable _ rfl, rowMatches_encodeXK _ _ _⟩
theorem sneByte (x : RegIdx) (nn : Byte) : Statement (.sneByte x nn) := ⟨inTable _ rfl, rowMatches_encodeXK _ _ _⟩
theorem seReg (x y : RegIdx) : Statement (.seReg x y) := ⟨inTable _ rfl, rowMatches_encodeXY _ _ _ _⟩
theorem ldByte (x : RegIdx) (nn : Byte) : Statement (.ldByte x nn) := ⟨inTable _ rfl, rowMatches_encodeXK _ _ _⟩
theorem addByte (x : RegIdx) (nn : Byte) : Statement (.addByte x nn) := ⟨inTable _ rfl, rowMatches_encodeXK _ _ _⟩
theorem ldReg (x y : RegIdx) : Statement (.ldReg x y) := ⟨inTable _ rfl, rowMatches_encodeXY _ _ _ _⟩
theorem orReg (x y : RegIdx) : Statement (.orReg x y) := ⟨inTable _ rfl, rowMatches_encodeXY _ _ _ _⟩
theorem andReg (x y : RegIdx) : Statement (.andReg x y) := ⟨inTable _ rfl, rowMatches_encodeXY _ _ _ _⟩
theorem xorReg (x y : RegIdx) : Statement (.xorReg x y) := ⟨inTable _ rfl, rowMatches_encodeXY _ _ _ _⟩
theorem addReg (x y : RegIdx) : Statement (.addReg x y) := ⟨inTable _ rfl, rowMatches_encodeXY _ _ _ _⟩
theorem subReg (x y : RegIdx) : Statement (.subReg x y) := ⟨inTable _ rfl, rowMatches_encodeXY _ _ _ _⟩
theorem shr (x y : RegIdx) : Statement (.shr x y) := ⟨inTable _ rfl, rowMatches_encodeXY _ _ _ _⟩
theorem subnReg (x y : RegIdx) : Statement (.subnReg x y) := ⟨inTable _ rfl, rowMatches_encodeXY _ _ _ _⟩
theorem shl (x y : RegIdx) : Statement (.shl x y) := ⟨inTable _ rfl, rowMatches_encodeXY _ _ _ _⟩
theorem sneReg (x y : RegIdx) : Statement (.sneReg x y) := ⟨inTable _ rfl, rowMatches_encodeXY _ _ _ _⟩
theorem ldI (nnn : Nat) : Statement (.ldI nnn) := ⟨inTable _ rfl, rowMatches_encodeA _ _⟩
theorem jpV0 (nnn : Nat) : Statement (.jpV0 nnn) := ⟨inTable _ rfl, rowMatches_encodeA _ _⟩
theorem rnd (x : RegIdx) (nn : Byte) : Statement (.rnd x nn) := ⟨inTable _ rfl, rowMatches_encodeXK _ _ _⟩
theorem drw (x y : RegIdx) (n : Nat) : Statement (.drw x y n) := ⟨inTable _ rfl, rowMatches_encodeXYN _ _ _ _⟩
theorem skp (x : RegIdx) : Statement (.skp x) := ⟨inTable _ rfl, rowMatches_encodeXS _ _ _⟩
theorem sknp (x : RegIdx) : Statement (.sknp x) := ⟨inTable _ rfl, rowMatches_encodeXS _ _ _⟩
theorem ldVxDT (x : RegIdx) : Statement (.ldVxDT x) := ⟨inTable _ rfl, rowMatches_encodeXS _ _ _⟩
theorem ldVxK (x : RegIdx) : Statement (.ldVxK x) := ⟨inTable _ rfl, rowMatches_encodeXS _ _ _⟩
theorem ldDTVx (x : RegIdx) : Statement (.ldDTVx x) := ⟨inTable _ rfl, rowMatches_encodeXS _ _ _⟩
theorem ldSTVx (x : RegIdx) : Statement (.ldSTVx x) := ⟨inTable _ rfl, rowMatches_encodeXS _ _ _⟩
theorem addI (x : RegIdx) : Statement (.addI x) := ⟨inTable _ rfl, rowMatches_encodeXS _ _ _⟩
theorem ldF (x : RegIdx) : Statement (.ldF x) := ⟨inTable _ rfl, rowMatches_encodeXS _ _ _⟩
theorem ldB (x : RegIdx) : Statement (.ldB x) := ⟨inTable _ rfl, rowMatches_encodeXS _ _ _⟩
theorem storeRegs (x : RegIdx) : Statement (.storeRegs x) := ⟨inTable _ rfl, rowMatches_encodeXS _ _ _⟩
theorem loadRegs (x : RegIdx) : Statement (.loadRegs x) := ⟨inTable _ rfl, rowMatches_encodeXS _ _ _⟩

end Sys2Proof.Laws.TableRow
end

