-- ==== Sys2Proof/Laws/Step.lean ====
section
/-!
SUPPORT. What one step can do, said once: every meaning answers a next state, and every next state of
the machine comes from one of the cases of `step_cases`. Runs are taken apart here too.
-/

namespace Sys2Proof.Machine

/-- Every meaning answers a next state: a fault of the spec is a state, not a stop (R221). -/
theorem exec_next (i : Instr) (s : State) : ∃ t, exec i s = .next t := by
  cases i <;> simp only [exec]
  case ret => unfold execRet; cases s.top <;> exact ⟨_, rfl⟩
  case call => unfold execCall; split <;> exact ⟨_, rfl⟩
  case drw => unfold execDrw; split <;> exact ⟨_, rfl⟩
  case skp => unfold execSkp; split <;> exact ⟨_, rfl⟩
  case sknp => unfold execSknp; split <;> exact ⟨_, rfl⟩
  case ldVxDT => unfold execLdVxDT; split <;> exact ⟨_, rfl⟩
  all_goals exact ⟨_, rfl⟩

/-- What a step that answers a next state did, `s` being the state before its turn was taken. -/
inductive StepCase (s t : State) : Prop where
  /-- The second micro-step of a timer set. -/
  | add (u : TimerId) (b : Byte) (turn : s.turn = .engine) (running : s.status = .running)
      (flight : s.setInFlight = some (u, b)) (result : t = s.afterTurn.endTimerSet u b)
  /-- A fetch out of bounds. -/
  | badFetch (turn : s.turn = .engine) (running : s.status = .running) (idle : s.setInFlight = none)
      (fetch : s.fetch = none) (result : t = s.afterTurn.raise .fetchOutOfBounds s.pc s.pc)
  /-- An illegal word. -/
  | badWord (w : Word) (why : Illegal) (turn : s.turn = .engine) (running : s.status = .running)
      (idle : s.setInFlight = none) (fetch : s.fetch = some w) (decode : decodeWord w = .illegal why)
      (result : t = s.afterTurn.advance.raise .decodeFault w.toNat s.pc)
  /-- An instruction. -/
  | run (w : Word) (i : Instr) (turn : s.turn = .engine) (running : s.status = .running)
      (idle : s.setInFlight = none) (fetch : s.fetch = some w) (decode : decodeWord w = .instr i)
      (result : exec i s.afterTurn.advance = .next t)
  /-- A micro-step of a timer unit. -/
  | tick (u : TimerId) (v : TimerUnit) (turn : s.turn = .timer u)
      (moved : (s.timer u).tick s.cfg = some v) (result : t = s.afterTurn.setTimer u v)

/-- The turn does not change what is fetched. -/
@[simp] theorem State.afterTurn_fetch (s : State) : s.afterTurn.fetch = s.fetch := rfl

/-- Every next state comes from one of these cases. -/
theorem step_cases {s t : State} (h : step s = .next t) : StepCase s t := by
  unfold step agentTurn at h
  split at h
  · rename_i ht
    unfold engineTurn at h
    split at h
    · exact absurd h (by simp)
    · exact absurd h (by simp)
    · rename_i hr
      split at h
      · rename_i u b hf
        exact .add u b ht hr hf (by simpa using h.symm)
      · rename_i hi
        unfold engineCycle at h
        split at h
        · rename_i hf
          exact .badFetch ht hr hi hf (by simpa using h.symm)
        · rename_i w hf
          split at h
          · rename_i i hd
            exact .run w i ht hr hi hf hd h
          · rename_i why hd
            exact .badWord w why ht hr hi hf hd (by simpa using h.symm)
  · rename_i u ht
    unfold timerTurn at h
    split at h
    · rename_i v hv
      exact .tick u v ht hv (by simpa using h.symm)
    · exact absurd h (by simp)

/-- What holds at the start and is kept by every step holds of every state a run reaches. -/
theorem reaches_induct {P : State → Prop} (keep : ∀ s t, P s → step s = .next t → P t) {s t : State}
    {k : Nat} (h : Reaches s k t) (hs : P s) : P t := by
  induction k generalizing t with
  | zero => exact h ▸ hs
  | succ k ih =>
    obtain ⟨u, hu, hr⟩ := h
    exact keep u t (ih hu) hr

/-- Runs join. -/
theorem reaches_trans {s t u : State} {j k : Nat} (h : Reaches s j t) (h' : Reaches t k u) :
    Reaches s (j + k) u := by
  induction k generalizing u with
  | zero => exact h' ▸ h
  | succ k ih =>
    obtain ⟨w, hw, hr⟩ := h'
    exact ⟨w, ih hw, hr⟩

/-- One step first. -/
theorem reaches_head {s u t : State} {k : Nat} (h : step s = .next u) (h' : Reaches u k t) :
    Reaches s (k + 1) t :=
  Nat.add_comm 1 k ▸ reaches_trans (j := 1) ⟨s, rfl, h⟩ h'

/-- The machine is deterministic: k steps lead to one state. -/
theorem reaches_unique {s t u : State} {k : Nat} (ht : Reaches s k t) (hu : Reaches s k u) : t = u := by
  induction k generalizing t u with
  | zero => exact ht.trans hu.symm
  | succ k ih =>
    obtain ⟨t', ht', h⟩ := ht
    obtain ⟨u', hu', h'⟩ := hu
    rw [ih ht' hu', h'] at h
    simpa using h.symm

/-- A longer run passes through the state of a shorter one. -/
theorem reaches_split {s u : State} {j k : Nat} (h : Reaches s (j + k) u) :
    ∃ t, Reaches s j t ∧ Reaches t k u := by
  induction k generalizing u with
  | zero => exact ⟨u, h, rfl⟩
  | succ k ih =>
    obtain ⟨w, hw, hr⟩ := h
    obtain ⟨t, ht, hk⟩ := ih hw
    exact ⟨t, ht, w, hk, hr⟩

/-- A tick changes nothing that is observed (R245). -/
@[simp] theorem State.observed_setTimer (s : State) (u : TimerId) (v : TimerUnit) :
    (s.setTimer u v).observed = s.observed := by
  cases u <;> rfl

/-- A turn changes nothing that is observed (R245). -/
@[simp] theorem State.observed_afterTurn (s : State) : s.afterTurn.observed = s.observed := rfl

/-- With a turn decided, its agent moves, and the turns after it are decided as before. -/
theorem step_withTurns (s : State) (a : Agent) (turns : List Agent) :
    step (s.withTurns (a :: turns)) =
      agentTurn a
        (({ s with env := { s.env with moves := s.env.moves + 1 } } : State).withTurns turns) := rfl

end Sys2Proof.Machine
end

