-- ==== Sys2Proof/Tests/Slice0.lean ====
section
/-!
SUPPORT. The author's tests. Words and expected results come from the spec: formats of 30_encoding.md
R73 to R76 and the vectors T and E of 95_test_vectors.md, named in each docstring. Last come the
witnesses: for every obligation with hypotheses, a state and operands that meet them.
-/

namespace Sys2Proof.Tests

open Sys2Proof Sys2Proof.Machine

/-! ### Well-formedness: one ill-formed term for each check, refused; and the largest term, accepted -/

theorem test_wf_jp_address : (Instr.jp 0x1000).wf = false ∧ (Instr.jp 0xFFF).wf = true := by decide
theorem test_wf_call_address : (Instr.call 0x1000).wf = false ∧ (Instr.call 0xFFF).wf = true := by decide
theorem test_wf_ldI_address : (Instr.ldI 0x1000).wf = false ∧ (Instr.ldI 0xFFF).wf = true := by decide
theorem test_wf_jpV0_address : (Instr.jpV0 0x1000).wf = false ∧ (Instr.jpV0 0xFFF).wf = true := by decide
theorem test_wf_drw_count : (Instr.drw 0 1 16).wf = false ∧ (Instr.drw 0 1 15).wf = true := by decide

/-! ### Decoding: for every constructor a word written out from its format (R73) -/

/-- `0000 0000 1110 0000` (format Z). -/
theorem test_decode_cls : decodeWord 0b0000000011100000 = .instr (.cls) := by decide

/-- `0000 0000 1110 1110` (format Z). -/
theorem test_decode_ret : decodeWord 0b0000000011101110 = .instr (.ret) := by decide

/-- `0001 0010 0011 0100` (format A, T1). -/
theorem test_decode_jp : decodeWord 0b0001001000110100 = .instr (.jp 0x234) := by decide

/-- `0010 0011 0000 0000` (format A, T20). -/
theorem test_decode_call : decodeWord 0b0010001100000000 = .instr (.call 0x300) := by decide

/-- `0011 0011 0100 0010` (format XK, T30). -/
theorem test_decode_seByte : decodeWord 0b0011001101000010 = .instr (.seByte 3 0x42) := by decide

/-- `0100 0011 0100 0010` (format XK, T32). -/
theorem test_decode_sneByte : decodeWord 0b0100001101000010 = .instr (.sneByte 3 0x42) := by decide

/-- `0101 0001 0010 0000` (format XY, T34). -/
theorem test_decode_seReg : decodeWord 0b0101000100100000 = .instr (.seReg 1 2) := by decide

/-- `0110 1010 1111 1111` (format XK, T40). -/
theorem test_decode_ldByte : decodeWord 0b0110101011111111 = .instr (.ldByte 10 0xFF) := by decide

/-- `0111 0001 0010 0000` (format XK, T41). -/
theorem test_decode_addByte : decodeWord 0b0111000100100000 = .instr (.addByte 1 0x20) := by decide

/-- `1000 0001 0010 0000` (format XY, T43). -/
theorem test_decode_ldReg : decodeWord 0b1000000100100000 = .instr (.ldReg 1 2) := by decide

/-- `1000 0001 0010 0001` (format XY, T44). -/
theorem test_decode_orReg : decodeWord 0b1000000100100001 = .instr (.orReg 1 2) := by decide

/-- `1000 0001 0010 0010` (format XY, T45). -/
theorem test_decode_andReg : decodeWord 0b1000000100100010 = .instr (.andReg 1 2) := by decide

/-- `1000 0001 0010 0011` (format XY, T46). -/
theorem test_decode_xorReg : decodeWord 0b1000000100100011 = .instr (.xorReg 1 2) := by decide

/-- `1000 0001 0010 0100` (format XY, T48). -/
theorem test_decode_addReg : decodeWord 0b1000000100100100 = .instr (.addReg 1 2) := by decide

/-- `1000 0001 0010 0101` (format XY, T53). -/
theorem test_decode_subReg : decodeWord 0b1000000100100101 = .instr (.subReg 1 2) := by decide

/-- `1000 0001 0010 0110` (format XY, T63). -/
theorem test_decode_shr : decodeWord 0b1000000100100110 = .instr (.shr 1 2) := by decide

/-- `1000 0001 0010 0111` (format XY, T58). -/
theorem test_decode_subnReg : decodeWord 0b1000000100100111 = .instr (.subnReg 1 2) := by decide

/-- `1000 0001 1111 1110` (format XY, Y ignored but kept, T14). -/
theorem test_decode_shl : decodeWord 0b1000000111111110 = .instr (.shl 1 15) := by decide

/-- `1001 0001 0010 0000` (format XY, T35). -/
theorem test_decode_sneReg : decodeWord 0b1001000100100000 = .instr (.sneReg 1 2) := by decide

/-- `1010 0001 0010 0011` (format A, T130). -/
theorem test_decode_ldI : decodeWord 0b1010000100100011 = .instr (.ldI 0x123) := by decide

/-- `1011 0101 0000 0000` (format A, T29). -/
theorem test_decode_jpV0 : decodeWord 0b1011010100000000 = .instr (.jpV0 0x500) := by decide

/-- `1100 0011 0000 1111` (format XK, T70). -/
theorem test_decode_rnd : decodeWord 0b1100001100001111 = .instr (.rnd 3 0x0F) := by decide

/-- `1101 0000 0001 0101` (format XYN, T87). -/
theorem test_decode_drw : decodeWord 0b1101000000010101 = .instr (.drw 0 1 5) := by decide

/-- `1110 0010 1001 1110` (format XS, T100). -/
theorem test_decode_skp : decodeWord 0b1110001010011110 = .instr (.skp 2) := by decide

/-- `1110 0010 1010 0001` (format XS, T102). -/
theorem test_decode_sknp : decodeWord 0b1110001010100001 = .instr (.sknp 2) := by decide

/-- `1111 0011 0000 0111` (format XS, T112). -/
theorem test_decode_ldVxDT : decodeWord 0b1111001100000111 = .instr (.ldVxDT 3) := by decide

/-- `1111 0010 0000 1010` (format XS, T106). -/
theorem test_decode_ldVxK : decodeWord 0b1111001000001010 = .instr (.ldVxK 2) := by decide

/-- `1111 0100 0001 0101` (format XS, T109). -/
theorem test_decode_ldDTVx : decodeWord 0b1111010000010101 = .instr (.ldDTVx 4) := by decide

/-- `1111 0100 0001 1000` (format XS, T111). -/
theorem test_decode_ldSTVx : decodeWord 0b1111010000011000 = .instr (.ldSTVx 4) := by decide

/-- `1111 0001 0001 1110` (format XS, T131). -/
theorem test_decode_addI : decodeWord 0b1111000100011110 = .instr (.addI 1) := by decide

/-- `1111 0000 0010 1001` (format XS, T136). -/
theorem test_decode_ldF : decodeWord 0b1111000000101001 = .instr (.ldF 0) := by decide

/-- `1111 0101 0011 0011` (format XS, T141). -/
theorem test_decode_ldB : decodeWord 0b1111010100110011 = .instr (.ldB 5) := by decide

/-- `1111 0011 0101 0101` (format XS, T145). -/
theorem test_decode_storeRegs : decodeWord 0b1111001101010101 = .instr (.storeRegs 3) := by decide

/-- `1111 0011 0110 0101` (format XS, T148). -/
theorem test_decode_loadRegs : decodeWord 0b1111001101100101 = .instr (.loadRegs 3) := by decide

/-- Illegal words of every family (T5 to T12). -/
theorem test_decode_illegal :
    decodeWord 0x0123 = .illegal .family0 ∧ decodeWord 0x0000 = .illegal .family0 ∧
    decodeWord 0x00E1 = .illegal .family0 ∧ decodeWord 0x5121 = .illegal .family5 ∧
    decodeWord 0x9AB3 = .illegal .family9 ∧ decodeWord 0x8128 = .illegal .family8 ∧
    decodeWord 0x812F = .illegal .family8 ∧ decodeWord 0x812D = .illegal .family8 ∧
    decodeWord 0xE19F = .illegal .familyE ∧ decodeWord 0xF100 = .illegal .familyF ∧
    decodeWord 0xF156 = .illegal .familyF ∧ decodeWord 0xFFFF = .illegal .familyF := by decide

/-- Bytes are read high byte first (T1). -/
theorem test_decode_bytes : decodeBytes [0x12, 0x34, 0x56] = .instr (.jp 0x234) [0x56] := by decide

/-- One byte is no instruction (R70). -/
theorem test_decode_short : decodeBytes [0x12] = .tooShort := by decide

/-- The word of `DRW V0, V1, 5` in memory order (R52). -/
theorem test_encode_bytes : encodeBytes (.drw 0 1 5) = [0xD0, 0x15] := by decide

/-! ### Steps -/

/-- The reset state (whose memory lists nothing) with pc at `a` and the word `w` placed there, the
Engine's turn. -/
def startAt (a w : Nat) : State := ({ State.reset with mem := Memory.blank, pc := a }).withFetchWord 16 w

/-- The state with these registers. -/
def withRegs (s : State) (rs : List (RegIdx × Byte)) : State := rs.foldl (fun s r => s.setV r.1 r.2) s

/-- The state with these bytes from `a`. -/
def withBytes (s : State) (a : Nat) (bs : List Byte) : State := { s with mem := s.mem.writeBytes a bs }

/-- What the next state shows, if the step answers one. -/
def seen {α : Type} (s : State) (f : State → α) : Option α :=
  match step s with
  | .next t => some (f t)
  | .fault _ => none
  | .refused _ => none

/-- T80: a dirty display is cleared, VF kept, nothing presented. -/
theorem test_cls :
    seen (withRegs { startAt 0x200 0x00E0 with disp := Grid.clear.setPixel 3 5 true } [(15, 7)])
      (fun t => (t.disp.pixel 3 5, t.V vF, t.out, t.pc)) = some (false, 7, [], 0x202) := by
  decide

/-- T22: last in, first out. -/
theorem test_ret :
    seen { startAt 0x400 0x00EE with stack := [0x204, 0x302] } (fun t => (t.pc, t.stack)) =
      some (0x302, [0x204]) := by
  decide

/-- T23: the empty store halts. -/
theorem test_ret_halts :
    seen (startAt 0x206 0x00EE) (fun t => (t.pc, t.stack, t.status)) = some (0x208, [], .halted) := by
  decide

/-- T1. -/
theorem test_jp :
    seen (startAt 0x200 0x1234) (fun t => (t.pc, t.stack)) = some (0x234, []) := by
  decide

/-- T21. -/
theorem test_call :
    seen { startAt 0x300 0x2400 with stack := [0x204] } (fun t => (t.pc, t.stack)) =
      some (0x400, [0x204, 0x302]) := by
  decide

/-- T24: the limit is 2. -/
theorem test_call_too_deep :
    seen { startAt 0x400 0x2500 with stack := [0x204, 0x302], cfg := { Config.simulator with maxCallDepth := some 2 } }
      (fun t => (t.pc, t.stack, t.status)) =
      some (0x402, [0x204, 0x302], .faulted .callDepthExceeded 0x400 0x400) := by
  decide

/-- T29: the offset is V0, never V5. -/
theorem test_jpV0 :
    seen (withRegs (startAt 0x200 0xB500) [(0, 1), (5, 0x77)]) (fun t => t.pc) = some 0x501 := by
  decide

/-- T28. -/
theorem test_jpV0_unmasked :
    seen (withRegs (startAt 0x200 0xBFFF) [(0, 0xFF)]) (fun t => t.pc) = some 0x10FE := by
  decide

/-- T30. -/
theorem test_seByte :
    seen (withRegs (startAt 0x200 0x3342) [(3, 0x42)]) (fun t => t.pc) = some 0x204 := by
  decide

/-- T31. -/
theorem test_seByte_no_skip :
    seen (withRegs (startAt 0x200 0x3343) [(3, 0x42)]) (fun t => t.pc) = some 0x202 := by
  decide

/-- T33. -/
theorem test_sneByte :
    seen (withRegs (startAt 0x200 0x4300) [(3, 0x42)]) (fun t => t.pc) = some 0x204 := by
  decide

/-- T32. -/
theorem test_sneByte_no_skip :
    seen (withRegs (startAt 0x200 0x4342) [(3, 0x42)]) (fun t => t.pc) = some 0x202 := by
  decide

/-- T34. -/
theorem test_seReg :
    seen (withRegs (startAt 0x200 0x5120) [(1, 7), (2, 7)]) (fun t => t.pc) = some 0x204 := by
  decide

/-- T35. -/
theorem test_sneReg :
    seen (withRegs (startAt 0x200 0x9120) [(1, 7), (2, 8)]) (fun t => t.pc) = some 0x204 := by
  decide

/-- T37: X and Y are one register. -/
theorem test_sneReg_same :
    seen (withRegs (startAt 0x200 0x9110) [(1, 7)]) (fun t => t.pc) = some 0x202 := by
  decide

/-- E1, T40. -/
theorem test_ldByte :
    seen (startAt 0x200 0x6AFF) (fun t => (t.V 10, t.V vF, t.pc)) = some (0xFF, 0, 0x202) := by
  decide

/-- T41: no carry flag. -/
theorem test_addByte :
    seen (withRegs (startAt 0x200 0x7120) [(1, 0xF0), (15, 9)]) (fun t => (t.V 1, t.V vF)) = some (0x10, 9) := by
  decide

/-- T42. -/
theorem test_addByte_vF :
    seen (withRegs (startAt 0x200 0x7F01) [(15, 0xFF)]) (fun t => t.V vF) = some 0 := by
  decide

/-- T43. -/
theorem test_ldReg :
    seen (withRegs (startAt 0x200 0x8120) [(1, 0x12), (2, 0x34), (15, 9)])
      (fun t => (t.V 1, t.V 2, t.V vF)) = some (0x34, 0x34, 9) := by
  decide

/-- T44. -/
theorem test_orReg :
    seen (withRegs (startAt 0x200 0x8121) [(1, 0x0C), (2, 0x06), (15, 9)])
      (fun t => (t.V 1, t.V 2, t.V vF)) = some (0x0E, 0x06, 9) := by
  decide

/-- T45. -/
theorem test_andReg :
    seen (withRegs (startAt 0x200 0x8122) [(1, 0x0C), (2, 0x06), (15, 9)])
      (fun t => (t.V 1, t.V 2, t.V vF)) = some (0x04, 0x06, 9) := by
  decide

/-- T46. -/
theorem test_xorReg :
    seen (withRegs (startAt 0x200 0x8123) [(1, 0x0C), (2, 0x06), (15, 9)])
      (fun t => (t.V 1, t.V 2, t.V vF)) = some (0x0A, 0x06, 9) := by
  decide

/-- T49: the old VF is no carry in. -/
theorem test_addReg :
    seen (withRegs (startAt 0x200 0x8124) [(1, 0xFF), (15, 1)]) (fun t => (t.V 1, t.V vF)) = some (0xFF, 0) := by
  decide

/-- T51: 0xC8 + 0x64 = 300 into VF, under both orders. -/
theorem test_addReg_vF :
    seen (withRegs (startAt 0x200 0x8F14) [(15, 0xC8), (1, 0x64)]) (fun t => t.V vF) = some 1 ∧
    seen (withRegs { startAt 0x200 0x8F14 with cfg := { Config.simulator with flagOrder := .resultLast } }
      [(15, 0xC8), (1, 0x64)]) (fun t => t.V vF) = some 0x2C := by
  decide

/-- E3. -/
theorem test_subReg :
    seen (withRegs (startAt 0x200 0x8125) [(1, 5), (2, 10), (15, 9)]) (fun t => (t.V 1, t.V vF)) = some (0xFB, 0) := by
  decide

/-- T53: equal operands clear VF. -/
theorem test_subReg_equal :
    seen (withRegs (startAt 0x200 0x8125) [(1, 7), (2, 7), (15, 9)]) (fun t => (t.V 1, t.V vF)) = some (0, 0) := by
  decide

/-- T63: V2 is not read. -/
theorem test_shr :
    seen (withRegs (startAt 0x200 0x8126) [(1, 0xFE), (2, 1), (15, 9)]) (fun t => (t.V 1, t.V 2, t.V vF)) = some (0x7F, 1, 0) := by
  decide

/-- T65, under both orders. -/
theorem test_shr_vF :
    seen (withRegs (startAt 0x200 0x8F06) [(15, 2)]) (fun t => t.V vF) = some 0 ∧
    seen (withRegs { startAt 0x200 0x8F06 with cfg := { Config.simulator with flagOrder := .resultLast } }
      [(15, 2)]) (fun t => t.V vF) = some 1 := by
  decide

/-- T58. -/
theorem test_subnReg :
    seen (withRegs (startAt 0x200 0x8127) [(1, 5), (2, 10)]) (fun t => (t.V 1, t.V 2, t.V vF)) = some (5, 10, 1) := by
  decide

/-- T59. -/
theorem test_subnReg_negative :
    seen (withRegs (startAt 0x200 0x8127) [(1, 10), (2, 5), (15, 9)]) (fun t => (t.V 1, t.V vF)) = some (0xFB, 0) := by
  decide

/-- T68. -/
theorem test_shl :
    seen (withRegs (startAt 0x200 0x810E) [(1, 0x81)]) (fun t => (t.V 1, t.V vF)) = some (0x02, 1) := by
  decide

/-- T69, under both orders. -/
theorem test_shl_vF :
    seen (withRegs (startAt 0x200 0x8F0E) [(15, 0x81)]) (fun t => t.V vF) = some 1 ∧
    seen (withRegs { startAt 0x200 0x8F0E with cfg := { Config.simulator with flagOrder := .resultLast } }
      [(15, 0x81)]) (fun t => t.V vF) = some 2 := by
  decide

/-- T130. -/
theorem test_ldI :
    seen (startAt 0x200 0xA123) (fun t => t.i) = some 0x123 := by
  decide

/-- T70. -/
theorem test_rnd :
    seen { startAt 0x200 0xC30F with env := { Env.undecided with turns := [.engine], random := [0xB7] } }
      (fun t => (t.V 3, t.env.queries)) = some (0x07, 1) := by
  decide

/-- T71: the query is made all the same. -/
theorem test_rnd_zero :
    seen { startAt 0x200 0xC300 with env := { Env.undecided with turns := [.engine], random := [0xB7, 1] } }
      (fun t => (t.V 3, t.env.queries, t.env.random)) = some (0, 1, [1]) := by
  decide

/-- T89: row 0xC0 over a set pixel at column 1. -/
theorem test_drw_collides :
    seen (withBytes { startAt 0x200 0xD011 with i := 0x300, disp := Grid.clear.setPixel 0 1 true } 0x300 [0xC0])
      (fun t => (t.disp.pixel 0 0, t.disp.pixel 0 1, t.V vF, t.out.length)) = some (true, false, 1, 1) := by
  decide

/-- T93: only the last pixel of the grid is drawn. -/
theorem test_drw_clips :
    seen (withBytes (withRegs { startAt 0x200 0xD011 with i := 0x300 } [(0, 63), (1, 31)]) 0x300 [0xFF])
      (fun t => (t.disp.pixel 31 63, t.disp.pixel 31 0, t.disp.pixel 0 63, t.disp.pixel 0 0, t.V vF)) =
      some (true, false, false, false, 0) := by
  decide

/-- T100. -/
theorem test_skp :
    seen (withRegs { startAt 0x300 0xE29E with env := { Env.undecided with turns := [.engine], held := [true] } } [(2, 5)]) (fun t => t.pc) = some 0x304 := by
  decide

/-- T104. -/
theorem test_skp_out_of_range :
    seen (withRegs (startAt 0x300 0xE29E) [(2, 16)]) (fun t => (t.pc, t.status)) =
      some (0x302, .faulted .keyOutOfRange 16 0x300) := by
  decide

/-- T102. -/
theorem test_sknp :
    seen (withRegs { startAt 0x300 0xE2A1 with env := { Env.undecided with turns := [.engine], held := [true] } } [(2, 5)]) (fun t => t.pc) = some 0x302 := by
  decide

/-- T103. -/
theorem test_sknp_not_held :
    seen (withRegs { startAt 0x300 0xE2A1 with env := { Env.undecided with turns := [.engine], held := [false] } } [(2, 5)]) (fun t => t.pc) = some 0x304 := by
  decide

/-- T106, E10. -/
theorem test_ldVxK_none :
    seen { startAt 0x300 0xF20A with env := { Env.undecided with turns := [.engine], first := [none] } }
      (fun t => (t.pc, t.V 2)) = some (0x300, 0) := by
  decide

/-- E10: key 7. -/
theorem test_ldVxK_held :
    seen { startAt 0x300 0xF20A with env := { Env.undecided with turns := [.engine], first := [some 7] } }
      (fun t => (t.pc, t.V 2)) = some (0x302, 7) := by
  decide

/-- T109, the reset: VX is in flight. -/
theorem test_ldDTVx :
    seen (withRegs { startAt 0x200 0xF415 with dt := ⟨9, false, none⟩ } [(4, 60)])
      (fun t => (t.dt.c, t.setInFlight, t.pc)) = some (0, some (.dt, 60), 0x202) := by
  decide

/-- T109, the add. -/
theorem test_ldDTVx_add :
    seen { startAt 0x202 0x0000 with setInFlight := some (.dt, 60) } (fun t => (t.dt.c, t.setInFlight, t.pc)) =
      some (60, none, 0x202) := by
  decide

/-- T111, the reset. -/
theorem test_ldSTVx :
    seen (withRegs { startAt 0x200 0xF418 with st := ⟨9, false, none⟩, dt := ⟨8, false, none⟩ } [(4, 2)])
      (fun t => (t.st.c, t.dt.c, t.setInFlight)) = some (0, 8, some (.st, 2)) := by
  decide

/-- T111, the add. -/
theorem test_ldSTVx_add :
    seen { startAt 0x202 0x0000 with setInFlight := some (.st, 2) } (fun t => (t.st.c, t.dt.c, t.setInFlight)) =
      some (2, 0, none) := by
  decide

/-- T112. -/
theorem test_ldVxDT :
    seen { startAt 0x200 0xF307 with dt := ⟨17, false, none⟩ } (fun t => t.V 3) = some 17 := by
  decide

/-- T113. -/
theorem test_ldVxDT_out_of_range :
    seen { startAt 0x300 0xF307 with dt := ⟨300, false, none⟩ } (fun t => (t.V 3, t.status)) =
      some (0, .faulted .timerValueOutOfRange 300 0x300) := by
  decide

/-- T134. -/
theorem test_addI :
    seen (withRegs { startAt 0x200 0xF11E with i := 0xFF0 } [(1, 0xFF)]) (fun t => (t.i, t.V vF)) = some (0x0EF, 1) := by
  decide

/-- T135: the old VF is added. -/
theorem test_addI_vF :
    seen (withRegs { startAt 0x200 0xFF1E with i := 0x100 } [(15, 0x20)]) (fun t => (t.i, t.V vF)) = some (0x120, 0) := by
  decide

/-- T136. -/
theorem test_ldF :
    seen (withRegs (startAt 0x200 0xF029) [(0, 0xA)]) (fun t => t.i) = some 0x82 := by
  decide

/-- T140. -/
theorem test_ldF_unreduced :
    seen (withRegs (startAt 0x200 0xF029) [(0, 0xFF)]) (fun t => t.i) = some 0x54B := by
  decide

/-- E8. -/
theorem test_ldB :
    seen (withRegs { startAt 0x200 0xF533 with i := 0x300 } [(5, 205)])
      (fun t => (t.mem.read 0x300, t.mem.read 0x301, t.mem.read 0x302, t.i)) = some (2, 0, 5, 0x300) := by
  decide

/-- T144. -/
theorem test_ldB_out_of_bounds :
    seen (withRegs { startAt 0x200 0xF533 with i := 0xFFE } [(5, 123)])
      (fun t => (t.mem.read 0xFFE, t.mem.read 0xFFF, t.status)) =
      some (1, 2, .faulted .memWriteOutOfBounds 0x1000 0x200) := by
  decide

/-- T145: X is included, I is kept. -/
theorem test_storeRegs :
    seen (withRegs { startAt 0x200 0xF355 with i := 0x300 } [(0, 1), (1, 2), (2, 3), (3, 4), (4, 5)])
      (fun t => (t.mem.read 0x300, t.mem.read 0x303, t.mem.read 0x304, t.i)) = some (1, 4, 0, 0x300) := by
  decide

/-- T147, three of its registers. -/
theorem test_storeRegs_out_of_bounds :
    seen (withRegs { startAt 0x200 0xFF55 with i := 0xFF8 } [(0, 10), (7, 7), (8, 8)])
      (fun t => (t.mem.read 0xFF8, t.mem.read 0xFFF, t.mem.read 0x1000, t.status)) =
      some (10, 7, 0, .faulted .memWriteOutOfBounds 0x1000 0x200) := by
  decide

/-- T148. -/
theorem test_loadRegs :
    seen (withBytes { startAt 0x200 0xF365 with i := 0x300 } 0x300 [9, 8, 7, 6, 5])
      (fun t => (t.V 0, t.V 1, t.V 2, t.V 3, t.V 4, t.i)) = some (9, 8, 7, 6, 0, 0x300) := by
  decide

/-- T150: V0 is loaded first. -/
theorem test_loadRegs_out_of_bounds :
    seen (withBytes { startAt 0x200 0xF165 with i := 0xFFF } 0xFFF [0x55])
      (fun t => (t.V 0, t.V 1, t.status)) = some (0x55, 0, .faulted .memReadOutOfBounds 0x1000 0x200) := by
  decide

/-- T5. -/
theorem test_illegal :
    seen (startAt 0x200 0x0123) (fun t => (t.pc, t.status)) = some (0x202, .faulted .decodeFault 0x0123 0x200) := by
  decide

/-- T2. -/
theorem test_fetch_out_of_bounds :
    seen (startAt 0xFFF 0x00E0) (fun t => (t.pc, t.status)) = some (0xFFF, .faulted .fetchOutOfBounds 0xFFF 0xFFF) := by
  decide

/-- T3. -/
theorem test_fetch_last_word :
    seen (startAt 0xFFE 0x00EE) (fun t => (t.pc, t.status)) = some (0x1000, .halted) := by
  decide

/-- T114, the write. -/
theorem test_tick_holds_at_zero :
    seen { startAt 0x200 0 with dt := ⟨0, false, some 0⟩, env := { Env.undecided with turns := [.timer .dt] } }
      (fun t => (t.dt, t.pc)) = some (⟨0, false, none⟩, 0x200) := by
  decide

/-- T116. -/
theorem test_tick_stops :
    seen { startAt 0x200 0 with dt := ⟨256, false, none⟩, env := { Env.undecided with turns := [.timer .dt] } }
      (fun t => t.dt) = some ⟨256, true, none⟩ := by
  decide

/-! ### Witnesses: concrete states and operands that meet the hypotheses of each obligation -/

theorem witness_DecodeOfEncodeIsIdentity : (Instr.drw 15 15 15).wf = true ∧ (Instr.jp 0xFFF).wf = true := by decide

theorem witness_EncodeOfDecodeIsIdentity :
    decodeWord 0x81FE = .instr (.shl 1 15) ∧ decodeWord 0xFF65 = .instr (.loadRegs 15) := by decide

theorem witness_BytesOfAnInstructionDecode : (Instr.call 0xFFF).wf = true := by decide

/-- The last word of memory, and the first address past it. -/
theorem witness_FetchReadsTheBigEndianWord :
    (startAt 0xFFE 0).pc + 1 < (startAt 0xFFE 0).cfg.memSize ∧
    (startAt 0xFFF 0).cfg.memSize ≤ (startAt 0xFFF 0).pc + 1 := by decide

/-- One state for each of the three clauses. -/
theorem witness_EngineStepFollowsTheCycle :
    ((startAt 0xFFE 0x00EE).turn = .engine ∧ (startAt 0xFFE 0x00EE).status = .running ∧
      (startAt 0xFFE 0x00EE).setInFlight = none ∧ (startAt 0xFFE 0x00EE).fetch = some 0x00EE ∧
      decodeWord 0x00EE = .instr .ret) ∧
    ((startAt 0xFFF 0).turn = .engine ∧ (startAt 0xFFF 0).status = .running ∧
      (startAt 0xFFF 0).setInFlight = none ∧ (startAt 0xFFF 0).fetch = none) ∧
    (startAt 0x200 0x5121).fetch = some 0x5121 ∧ decodeWord 0x5121 = .illegal .family5 := by decide

theorem witness_IllegalWordChangesOnlyPcAndStatus :
    (startAt 0x200 0x00E1).turn = .engine ∧ (startAt 0x200 0x00E1).status = .running ∧
      (startAt 0x200 0x00E1).setInFlight = none ∧ (startAt 0x200 0x00E1).fetch = some 0x00E1 ∧
      decodeWord 0x00E1 = .illegal .family0 := by decide

/-- Running with a set in flight, on the Engine's turn; the last clause has the halted machine of
`witness_StoppedEngineKeepsEverythingButTimers`, which takes a step. -/
theorem witness_EngineStepsOnlyWhileRunning :
    ({ startAt 0x200 0 with setInFlight := some (.st, 3) }).turn = .engine ∧
    ({ startAt 0x200 0 with setInFlight := some (.st, 3) }).status = .running := by decide

/-- On the Engine's turn, halted and faulted. -/
theorem witness_TheAgentOnTurnMovesExactlyWhenEnabled :
    (startAt 0x200 0).halt.turn = .engine ∧ (startAt 0x200 0).halt.status = .halted ∧
    ((startAt 0x200 0).raise .decodeFault 0 0x200).turn = .engine ∧
    ((startAt 0x200 0).raise .decodeFault 0 0x200).status = .faulted .decodeFault 0 0x200 := by decide

/-- A halted machine whose delay timer takes a step. -/
theorem witness_StoppedEngineKeepsEverythingButTimers :
    ({ State.reset with status := .halted, env := { Env.undecided with turns := [.timer .dt] } }).status ≠ .running ∧
    ∃ t, Reaches { State.reset with status := .halted, env := { Env.undecided with turns := [.timer .dt] } } 1 t :=
  ⟨by decide, _, _, rfl, rfl⟩

theorem witness_ReturnPopsOrHalts :
    ({ State.reset with stack := [0x204, 0x302] }).stack = [0x204] ++ [0x302] ∧ State.reset.stack = [] := by decide

/-- A depth limit of two: one call below it, and at it; and no limit. -/
theorem witness_CallPushesTheNextAddress :
    ({ State.reset with stack := [0x204], cfg := { Config.simulator with maxCallDepth := some 2 } }).cfg.maxCallDepth ≠
      some [0x204].length ∧
    ({ State.reset with stack := [0x204, 0x302], cfg := { Config.simulator with maxCallDepth := some 2 } }).cfg.maxCallDepth =
      some [0x204, 0x302].length ∧
    State.reset.cfg.maxCallDepth ≠ some State.reset.stack.length := by decide

theorem witness_ReturnGoesBackToTheCaller :
    State.reset.cfg.maxCallDepth ≠ some State.reset.stack.length ∧
    ∃ t, exec (.call 0x300) State.reset = .next t ∧ ({ State.reset with stack := [0x200] }).stack = t.stack :=
  ⟨by decide, _, rfl, by decide⟩

theorem witness_RegisterSkips : (0b0001#4 : BitVec 4) ≠ 0 ∧ (0b1111#4 : BitVec 4) ≠ 0 := by decide

theorem witness_RandomIsMasked :
    ({ State.reset with env := { Env.undecided with random := [0xB7] } }).env.random = 0xB7 :: [] := by decide

theorem witness_RegistersChangeOnlyWhereNamed : ∃ t, exec (.drw 0 1 15) State.reset = .next t := exec_next _ _

/-- ANNN changes I; 2NNN changes the call frame store. -/
theorem witness_IndexAndStackWriters :
    (∃ t, exec (.ldI 0x123) State.reset = .next t ∧ t.i ≠ State.reset.i) ∧
    (∃ t, exec (.call 0x300) State.reset = .next t ∧ t.stack ≠ State.reset.stack) :=
  ⟨⟨_, rfl, by decide⟩, _, rfl, by decide⟩

/-- FX55 at 0x300 changes the byte there. -/
theorem witness_MemoryWriters :
    ∃ t, (withRegs { State.reset with i := 0x300, mem := Memory.blank } [(0, 0xAB)]).mem.wf ∧
      exec (.storeRegs 0) (withRegs { State.reset with i := 0x300, mem := Memory.blank } [(0, 0xAB)]) = .next t ∧
      t.mem.read 0x300 ≠
        (withRegs { State.reset with i := 0x300, mem := Memory.blank } [(0, 0xAB)]).mem.read 0x300 :=
  ⟨_, by decide, rfl, by decide⟩

/-- 00E0 changes a dirty display; DXYN presents. -/
theorem witness_DisplayWriters :
    (∃ t, exec .cls { State.reset with disp := Grid.clear.setPixel 0 0 true } = .next t ∧
      t.disp ≠ Grid.clear.setPixel 0 0 true) ∧
    (∃ t, exec (.drw 0 1 0) State.reset = .next t ∧ t.out ≠ State.reset.out) :=
  ⟨⟨_, rfl, fun h => absurd (congrArg (fun g => Grid.pixel g 0 0) h) (by decide)⟩, _, rfl,
    fun h => absurd (congrArg List.length h) (by decide)⟩

/-- FX15 changes the delay timer and what is in flight; CXNN makes a query. -/
theorem witness_TimerAndHostUsers :
    (∃ t, exec (.ldDTVx 0) { State.reset with dt := ⟨9, false, none⟩ } = .next t ∧ t.dt ≠ ⟨9, false, none⟩ ∧
      t.setInFlight ≠ none) ∧
    (∃ t, exec (.rnd 0 0) State.reset = .next t ∧ t.env ≠ State.reset.env) :=
  ⟨⟨_, rfl, by decide, by decide⟩, _, rfl, fun h => absurd (congrArg Env.queries h) (by decide)⟩

/-- The sprite's last byte is the last byte of memory; and a sprite without rows past its end. -/
theorem witness_DrawXorsTheSprite :
    ({ State.reset with i := 0xFF1 }).i.toNat + 15 ≤ State.reset.cfg.memSize ∧ (0 : Nat) = 0 := by decide

/-- The sprite's last byte is the first one past the end of memory. -/
theorem witness_DrawOutOfBoundsPlotsNothing :
    (2 : Nat) ≠ 0 ∧ State.reset.cfg.memSize < ({ State.reset with i := 0xFFF }).i.toNat + 2 := by decide

theorem witness_DrawingTwiceRestoresTheDisplay :
    (0 : RegIdx) ≠ vF ∧ (1 : RegIdx) ≠ vF ∧ ({ State.reset with i := 0xFF1 }).i.toNat + 15 ≤ State.reset.cfg.memSize := by
  decide

/-- The largest key number, with a decided answer. -/
theorem witness_KeySkips :
    ((withRegs State.reset [(2, 15)]).V 2).toNat < 16 ∧
    ({ State.reset with env := { Env.undecided with held := [true] } }).env.held = true :: [] := by decide

/-- The smallest number that is no key. -/
theorem witness_KeyNumberAbove15Faults :
    16 ≤ ((withRegs State.reset [(2, 16)]).V 2).toNat ∧ (Instr.skp 2 = .skp 2 ∨ Instr.skp 2 = .sknp 2) := by decide

/-- No key held, and key 15 held. -/
theorem witness_KeyWaitRewindsOrTakesTheKey :
    ({ State.reset with env := { Env.undecided with first := [none] } }).firstAnswer = none ∧
    ({ State.reset with env := { Env.undecided with first := [some 15] } }).firstAnswer = some 15 ∧
    ({ State.reset with env := { Env.undecided with first := [some 15] } }).env.first = some 15 :: [] := by decide

/-- The state of `witness_KeyWaitRefetchesTheSameWord`: FX0A at the last word of memory. -/
def waiting : State :=
  { startAt 0xFFE 0xF20A with env := { Env.undecided with turns := [.engine], first := [none] } }

theorem witness_KeyWaitRefetchesTheSameWord :
    waiting.turn = .engine ∧ waiting.status = .running ∧ waiting.setInFlight = none ∧
      waiting.fetch = some 0xF20A ∧ decodeWord 0xF20A = .instr (.ldVxK 2) ∧ waiting.firstAnswer = none := by decide

theorem witness_TimerSetEndsWithTheAdd :
    ({ startAt 0x202 0 with setInFlight := some (.st, 255) }).turn = .engine ∧
    ({ startAt 0x202 0 with setInFlight := some (.st, 255) }).status = .running ∧
    ({ startAt 0x202 0 with setInFlight := some (.st, 255) }).setInFlight = some (.st, 255) := by decide

/-- On the delay timer's turn: a tick that read 0; a counter one below, and at, the terminal value; a
stopped unit. -/
def onTick (u : TimerUnit) : State :=
  { State.reset with dt := u, env := { Env.undecided with turns := [.timer .dt] } }

theorem witness_TicksReadThenWrite :
    (onTick ⟨0, false, some 0⟩).turn = .timer .dt ∧ ((onTick ⟨0, false, some 0⟩).timer .dt).latch = some 0 ∧
    ((onTick ⟨255, false, none⟩).timer .dt).latch = none ∧ ((onTick ⟨255, false, none⟩).timer .dt).stopped = false ∧
    ((onTick ⟨256, false, none⟩).timer .dt).latch = none ∧ ((onTick ⟨256, false, none⟩).timer .dt).stopped = false ∧
    ((onTick ⟨256, true, none⟩).timer .dt).latch = none ∧ ((onTick ⟨256, true, none⟩).timer .dt).stopped = true := by
  decide

/-- The same with fused ticks, on either side of the terminal value. -/
theorem witness_TicksReadThenWrite_fused :
    ({ onTick ⟨255, false, none⟩ with cfg := { Config.simulator with tickAtomic := true } }).turn = .timer .dt ∧
    ({ onTick ⟨255, false, none⟩ with cfg := { Config.simulator with tickAtomic := true } }).cfg.tickAtomic = true ∧
    (({ onTick ⟨255, false, none⟩ with cfg := { Config.simulator with tickAtomic := true } }).timer .dt).latch = none ∧
    (({ onTick ⟨255, false, none⟩ with cfg := { Config.simulator with tickAtomic := true } }).timer .dt).stopped = false ∧
    ({ onTick ⟨255, false, none⟩ with cfg := { Config.simulator with tickAtomic := true } }).dt.c <
      Config.simulator.timerTerminal := by decide

/-- A fused tick decrements at once (R233). -/
theorem test_tick_fused :
    seen { onTick ⟨255, false, none⟩ with cfg := { Config.simulator with tickAtomic := true } } (fun t => t.dt) =
      some ⟨254, false, none⟩ := by
  decide

/-- A timer set about to run, with the counter one below the terminal value; ticks split or fused. -/
def racing (fused : Bool) : State :=
  { startAt 0x200 0xF415 with dt := ⟨255, false, none⟩, cfg := { Config.simulator with tickAtomic := fused } }

theorem witness_TimerSetRacesWithOneTick :
    (racing false).status = .running ∧ (racing false).setInFlight = none ∧ (racing false).fetch = some 0xF415 ∧
    decodeWord 0xF415 = .instr (timerSetInstr .dt 4) ∧ ((racing false).timer .dt).stopped = false ∧
    ((racing false).timer .dt).latch = none ∧ (racing false).cfg.tickAtomic = false ∧
    (racing false).cfg.wf = true ∧ ((racing false).timer .dt).c < (racing false).cfg.timerTerminal := by decide

theorem witness_TimerSetRacesWithOneFusedTick :
    (racing true).status = .running ∧ (racing true).setInFlight = none ∧ (racing true).fetch = some 0xF415 ∧
    decodeWord 0xF415 = .instr (timerSetInstr .dt 4) ∧ ((racing true).timer .dt).stopped = false ∧
    ((racing true).timer .dt).latch = none ∧ (racing true).cfg.tickAtomic = true ∧
    (racing true).cfg.wf = true ∧ ((racing true).timer .dt).c < (racing true).cfg.timerTerminal := by decide

theorem witness_CompleteTicksCountDown :
    ((onTick ⟨255, false, none⟩).timer .dt).stopped = false ∧ ((onTick ⟨255, false, none⟩).timer .dt).latch = none ∧
    ((onTick ⟨255, false, none⟩).timer .dt).c < (onTick ⟨255, false, none⟩).cfg.timerTerminal ∧
    (onTick ⟨255, false, none⟩).cfg.tickAtomic = false := by decide

/-- The write of a tick that read the present counter. -/
theorem witness_CounterNeverRisesWithoutASet :
    Settled .dt (onTick ⟨5, false, some 5⟩) ∧
    ∃ t, step (onTick ⟨5, false, some 5⟩) = .next t ∧
      (∀ b, (onTick ⟨5, false, some 5⟩).setInFlight ≠ some (.dt, b)) ∧ ∀ b, t.setInFlight ≠ some (.dt, b) :=
  ⟨fun n h => by cases h; decide, _, rfl, fun _ => nofun, fun _ => nofun⟩

theorem witness_DelayTimerReads :
    ({ State.reset with dt := ⟨255, false, none⟩ }).dt.c ≤ 255 ∧
    255 < ({ State.reset with dt := ⟨256, false, none⟩ }).dt.c := by decide

theorem witness_LoadIndex : (0xFFF : Nat) < 0x1000 := by decide

/-- The last digit at the last byte of memory, and one past it. -/
theorem witness_DecimalDigitsStored :
    Memory.blank.wf ∧
    ({ State.reset with i := 0xFFD }).effectiveAddr 2 < State.reset.cfg.memSize ∧
    State.reset.cfg.memSize ≤ ({ State.reset with i := 0xFFE }).effectiveAddr 2 ∧
    ({ State.reset with i := 0xFFE }).effectiveAddr 1 < State.reset.cfg.memSize := by decide

/-- The last register at the last byte of memory, and one past it. -/
theorem witness_RegisterBlockStored :
    Memory.blank.wf ∧
    ({ State.reset with i := 0xFF0 }).effectiveAddr (15 : RegIdx).val < State.reset.cfg.memSize ∧
    State.reset.cfg.memSize ≤ ({ State.reset with i := 0xFF1 }).effectiveAddr (15 : RegIdx).val ∧
    ({ State.reset with i := 0xFF1 }).effectiveAddr (14 : RegIdx).val < State.reset.cfg.memSize := by decide

theorem witness_RegisterBlockLoaded :
    ({ State.reset with i := 0xFF0 }).effectiveAddr (15 : RegIdx).val < State.reset.cfg.memSize ∧
    State.reset.cfg.memSize ≤ ({ State.reset with i := 0xFF1 }).effectiveAddr (15 : RegIdx).val ∧
    ({ State.reset with i := 0xFF1 }).effectiveAddr (14 : RegIdx).val < State.reset.cfg.memSize := by decide

/-- A state with the memory and the I that FX55 left. -/
theorem witness_StoredRegistersLoadBack :
    Memory.blank.wf ∧ ({ startAt 0x200 0 with i := 0xFF0 }).effectiveAddr (15 : RegIdx).val < State.reset.cfg.memSize ∧
    ∃ t, exec (.storeRegs 15) { startAt 0x200 0 with i := 0xFF0 } = .next t ∧
      ∃ u : State, u.mem = t.mem ∧ u.i = t.i ∧ u.cfg = t.cfg :=
  ⟨by decide, by decide, _, rfl, _, rfl, rfl, rfl⟩

/-- T151, FX55 storing both bytes of the next word; FX55 up to the last byte of memory, storing only the
low byte, and FX33 storing only the high byte. -/
theorem witness_StoresAreSeenByTheNextFetch :
    Memory.blank.wf ∧
    (({ State.reset with i := 0x202, pc := 0x202 }).pc + 1 < State.reset.cfg.memSize ∧
      ({ State.reset with i := 0x202, pc := 0x202 }).effectiveAddr (1 : RegIdx).val < State.reset.cfg.memSize) ∧
    (({ State.reset with i := 0xFFF, pc := 0xFFE }).pc + 1 < State.reset.cfg.memSize ∧
      ({ State.reset with i := 0xFFF, pc := 0xFFE }).effectiveAddr (0 : RegIdx).val < State.reset.cfg.memSize) ∧
    (({ State.reset with i := 0xFFC, pc := 0xFFE }).pc + 1 < State.reset.cfg.memSize ∧
      ({ State.reset with i := 0xFFC, pc := 0xFFE }).effectiveAddr 2 < State.reset.cfg.memSize) := by decide

/-- Two memories built by different writes. -/
theorem witness_EqualReadsAreEqualMemories :
    ((Memory.blank.write 0x300 5).write 0x301 6).wf ∧ ((Memory.blank.write 0x301 6).write 0x300 5).wf ∧
    ∀ a, ((Memory.blank.write 0x300 5).write 0x301 6).read a = ((Memory.blank.write 0x301 6).write 0x300 5).read a :=
  ⟨by decide, by decide, fun _ => rfl⟩

/-- A program of the largest size that fits is loaded, one byte more is refused. -/
theorem witness_PowerOnStateIsAsSpecified :
    PowerOn.simulator.wf Config.simulator.memSize ∧
    (∃ s, (State.powerOn Config.simulator PowerOn.simulator Env.undecided).loadProgram
      (List.replicate 0xE00 0xFF) = some s) ∧
    Config.simulator.memSize - 0x200 < (List.replicate 0xE01 (0 : Byte)).length := by
  refine ⟨by decide, ⟨_, if_pos ?_⟩, ?_⟩ <;> rw [List.length_replicate] <;> decide

theorem witness_PowerOnMeetsTheInvariant :
    Config.simulator.wf = true ∧ PowerOn.simulator.wf Config.simulator.memSize ∧
    ∃ s, (State.powerOn Config.simulator PowerOn.simulator Env.undecided).loadProgram [0x00, 0xEE] = some s :=
  ⟨by decide, by decide, _, if_pos (by decide)⟩

/-- A state at every bound of the invariant: call depth at its limit, I at its largest, a set in flight,
a tick half done. -/
def atTheBounds : State :=
  { startAt 0x202 0 with
    i := 0xFFF
    stack := [0x204]
    st := ⟨255, false, some 255⟩
    setInFlight := some (.st, 255)
    cfg := { Config.simulator with maxCallDepth := some 1 } }

theorem witness_EveryStepKeepsTheInvariant :
    atTheBounds.Inv ∧ ∃ t, step atTheBounds = .next t := by
  refine ⟨⟨by decide, by decide, by decide, by decide, ?_, ⟨by decide, by decide⟩, ⟨by decide, by decide⟩, ?_⟩,
    _, rfl⟩
  · rintro d ⟨⟩
    decide
  · exact fun _ => rfl

/-- 00EE with an empty store, and a tick decided to follow it. -/
def halting : State :=
  { startAt 0x200 0x00EE with env := { Env.undecided with turns := [.engine, .timer .dt] } }

/-- An illegal word. -/
def failing : State := startAt 0x200 0x0000

/-- FX0A, with no key held on its first step. -/
def waitingOnce : State :=
  { startAt 0xFFE 0xF20A with env := { Env.undecided with turns := [.engine], first := [none] } }

/-- A jump to itself. -/
def looping : State := startAt 0x200 0x1200

/-- Ends well at once, and again after the tick that follows; ends in a fault; the two halves of the halt's
condition; a jump to itself; a wait of one step. -/
theorem witness_RunsEndWellBadlyOrHang :
    (∃ o, EndsWellWith halting o) ∧
    (∃ t, Reaches halting 2 t ∧ t.endedWell) ∧
    EndsBadly failing ∧
    (halting.status = .running ∧ ∃ t, step halting = .next t ∧ t.endedWell) ∧
    (looping.status = .running ∧ looping.setInFlight = none ∧ looping.fetch = some 0x1200 ∧
      decodeWord 0x1200 = .instr (.jp looping.pc) ∧ ∃ t, Reaches looping 1 t) ∧
    (waitingOnce.status = .running ∧ waitingOnce.setInFlight = none ∧ waitingOnce.fetch = some 0xF20A ∧
      decodeWord 0xF20A = .instr (.ldVxK 2) ∧
      (∀ j u, j < 1 → Reaches waitingOnce j u → u.firstAnswer = none) ∧ ∃ t, Reaches waitingOnce 1 t) := by
  refine ⟨⟨_, 1, _, ⟨_, rfl, rfl⟩, rfl, rfl⟩, ⟨_, ⟨_, ⟨_, rfl, rfl⟩, rfl⟩, rfl⟩,
    ⟨1, _, ⟨_, rfl, rfl⟩, _, _, _, rfl⟩, ⟨rfl, _, rfl, rfl⟩,
    ⟨rfl, rfl, by decide, by decide, _, _, rfl, rfl⟩,
    rfl, rfl, by decide, by decide, ?_, _, _, rfl, rfl⟩
  intro j u hj hu
  obtain rfl : j = 0 := by omega
  exact congrArg State.firstAnswer hu

/-- What every step of the jump to itself keeps. -/
structure Loops (s : State) : Prop where
  running : s.status = .running
  idle : s.setInFlight = none
  pc : s.pc = 0x200
  word : s.fetch = some 0x1200
  split : s.cfg = Config.simulator
  ticking : ∀ u, (s.timer u).c = 0 ∧ (s.timer u).stopped = false ∧ ∀ r, (s.timer u).latch = some r → r = 0

/-- Every agent has a step in the loop, and keeps it. -/
theorem Loops.step {s : State} (h : Loops s) : ∃ t, step s = .next t ∧ Loops t := by
  obtain ⟨hr, hi, hp, hw, hc, ht⟩ := h
  cases hturn : s.turn with
  | engine =>
    refine ⟨(s.afterTurn.goto 0x200), ?_, ⟨hr, hi, rfl, ?_, hc, ht⟩⟩
    · simp only [Machine.step, hturn, agentTurn, engineTurn, State.afterTurn_status, hr,
        State.afterTurn_setInFlight, hi, engineCycle, State.afterTurn_fetch, hw, (by decide : decodeWord 0x1200 = .instr (.jp 0x200))]
      rfl
    · rw [← hw, State.fetch_eq, State.fetch_eq, hp]
      rfl
  | timer u =>
    obtain ⟨h0, hs, hl⟩ := ht u
    have key : ∃ v, (s.timer u).tick s.cfg = some v ∧ v.c = 0 ∧ v.stopped = false ∧ ∀ r, v.latch = some r → r = 0 := by
      simp only [TimerUnit.tick, hc, h0, hs]
      cases e : (s.timer u).latch with
      | none => exact ⟨_, rfl, rfl, rfl, fun r h => by simpa using h.symm⟩
      | some r => exact ⟨_, rfl, by simp [tickDown, hl r e], rfl, by simp⟩
    obtain ⟨v, hv, hv'⟩ := key
    refine ⟨s.afterTurn.setTimer u v, by simp [Machine.step, hturn, agentTurn, timerTurn, hv],
      ⟨by simpa using hr, by simpa using hi, by simpa using hp, ?_, by simpa using hc, ?_⟩⟩
    · rw [State.fetch_eq] at hw ⊢; simpa using hw
    · intro u'; rw [State.setTimer_timer]; split; exact hv'; exact ht u'

/-- The jump to itself hangs, whatever agents move. -/
theorem witness_RunsEndWellBadlyOrHang_hangs : Hangs looping := by
  intro k
  have : ∃ t, Reaches looping k t ∧ Loops t := by
    induction k with
    | zero => exact ⟨looping, rfl, rfl, rfl, rfl, by decide, rfl,
      by rintro (_ | _) <;> exact ⟨rfl, rfl, fun _ h => by cases h⟩⟩
    | succ k ih =>
      obtain ⟨t, ht, hl⟩ := ih
      obtain ⟨u, hu, hl'⟩ := hl.step
      exact ⟨u, ⟨t, ht, hu⟩, hl'⟩
  obtain ⟨t, ht, hl⟩ := this
  exact ⟨t, ht, hl.running⟩

/-- The turn of a stopped timer unit cuts a run short. -/
theorem witness_RunsEndWellBadlyOrHang_cutShort :
    CutShort (onTick ⟨256, true, none⟩) := ⟨0, _, .dt, rfl, rfl, rfl⟩

end Sys2Proof.Tests
end

/-!
PROOFS. The engine cycle and control flow (40_control_flow.md): what the Engine's turn does in each
situation, that no step leaves Halted or Faulted, and the meanings that move only pc.
-/

namespace Sys2Proof.Machine

/-! ### The Engine's turn, one equation per situation (R100, R101) -/

section EngineTurn

variable {s : State} (turn : s.turn = .engine) (running : s.status = .running)
include turn running

/-- While a timer set is in flight, the Engine's step is the add (R100, R234). -/
theorem step_of_flight {u : TimerId} {b : Byte} (flight : s.setInFlight = some (u, b)) :
    step s = .next (s.afterTurn.endTimerSet u b) := by
  simp [step, turn, agentTurn, engineTurn, running, flight]

/-- With nothing in flight, the Engine's step is its cycle. -/
theorem step_of_idle (idle : s.setInFlight = none) : step s = engineCycle s.afterTurn := by
  simp [step, turn, agentTurn, engineTurn, running, idle]

theorem step_of_badFetch (idle : s.setInFlight = none) (fetch : s.fetch = none) :
    step s = .next (s.afterTurn.raise .fetchOutOfBounds s.pc s.pc) := by
  simp [step_of_idle turn running idle, engineCycle, fetch]

theorem step_of_instr {w : Word} {i : Instr} (idle : s.setInFlight = none) (fetch : s.fetch = some w)
    (decode : decodeWord w = .instr i) : step s = exec i (s.afterTurn.goto (s.pc + 2)) := by
  simp [step_of_idle turn running idle, engineCycle, fetch, decode, State.advance]

theorem step_of_illegal {w : Word} {why : Illegal} (idle : s.setInFlight = none)
    (fetch : s.fetch = some w) (decode : decodeWord w = .illegal why) :
    step s = .next ((s.afterTurn.goto (s.pc + 2)).raise .decodeFault w.toNat s.pc) := by
  simp [step_of_idle turn running idle, engineCycle, fetch, decode, State.advance]

/-- A running Engine has a step in each of these situations. -/
theorem exists_step_of_running : ∃ t, step s = .next t := by
  cases flight : s.setInFlight with
  | some set => exact ⟨_, step_of_flight turn running flight⟩
  | none =>
    cases fetch : s.fetch with
    | none => exact ⟨_, step_of_badFetch turn running flight fetch⟩
    | some w =>
      cases decode : decodeWord w with
      | illegal why => exact ⟨_, step_of_illegal turn running flight fetch decode⟩
      | instr i =>
        rw [step_of_instr turn running flight fetch decode]
        exact exec_next i _

end EngineTurn

/-! ### Stopped machines (R32, R100) -/

/-- A next state comes from a running Engine or from a tick. -/
theorem running_or_tick_of_step {s t : State} (h : step s = .next t) :
    (s.turn = .engine ∧ s.status = .running) ∨
    ∃ u v, s.turn = .timer u ∧ (s.timer u).tick s.cfg = some v ∧ t = s.afterTurn.setTimer u v := by
  cases step_cases h with
  | add _ _ turn running => exact .inl ⟨turn, running⟩
  | badFetch turn running => exact .inl ⟨turn, running⟩
  | badWord _ _ turn running => exact .inl ⟨turn, running⟩
  | run _ _ turn running => exact .inl ⟨turn, running⟩
  | tick u v turn moved result => exact .inr ⟨u, v, turn, moved, result⟩

theorem running_of_engine_step {s t : State} (turn : s.turn = .engine) (h : step s = .next t) :
    s.status = .running := by
  obtain ⟨-, running⟩ | ⟨u, -, tick, -⟩ := running_or_tick_of_step h
  · exact running
  · simp [turn] at tick

theorem step_status_of_stopped {s t : State} (stopped : s.status ≠ .running) (h : step s = .next t) :
    t.status = s.status := by
  obtain ⟨-, running⟩ | ⟨u, v, -, -, rfl⟩ := running_or_tick_of_step h
  · exact absurd running stopped
  · simp

theorem reaches_status_of_stopped {s t : State} {k : Nat} (stopped : s.status ≠ .running)
    (h : Reaches s k t) : t.status = s.status :=
  reaches_induct (P := fun u => u.status = s.status)
    (fun _ _ same next => (step_status_of_stopped (same ▸ stopped) next).trans same) h rfl

/-! ### Jumps and skips (R105, R112, R113) -/

theorem goto_onlyPc (s : State) (n : Nat) : OnlyPc s (s.goto n) :=
  ⟨fun _ _ => rfl, rfl, rfl, fun _ => rfl, ⟨rfl, rfl⟩, ⟨rfl, rfl⟩, ⟨rfl, rfl⟩, rfl, rfl⟩

theorem decodeWord_jp (nnn : BitVec 12) : decodeWord (0b0001#4 ++ nnn) = .instr (.jp nnn.toNat) := by
  have fits : nnn.toNat % 0x1000 = nnn.toNat := Nat.mod_eq_of_lt nnn.isLt
  simp [← encodeA_eq, decodeWord, fieldNNN_encodeA, fits]

theorem decodeWord_seByte (x : BitVec 4) (nn : Byte) :
    decodeWord (0b0011#4 ++ x ++ nn) = .instr (.seByte x.toFin nn) := by
  simp [← encodeXK_eq, decodeWord]

theorem decodeWord_sneByte (x : BitVec 4) (nn : Byte) :
    decodeWord (0b0100#4 ++ x ++ nn) = .instr (.sneByte x.toFin nn) := by
  simp [← encodeXK_eq, decodeWord]

theorem exec_jp (nnn : Nat) (s : State) : exec (.jp nnn) s = .next (s.goto nnn) := rfl

theorem exec_seByte (x : RegIdx) (nn : Byte) (s : State) :
    exec (.seByte x nn) s = .next (s.goto (if s.V x = nn then s.pc + 2 else s.pc)) := by
  simp [exec, execSeByte]

theorem exec_sneByte (x : RegIdx) (nn : Byte) (s : State) :
    exec (.sneByte x nn) s = .next (s.goto (if s.V x = nn then s.pc else s.pc + 2)) := by
  simp [exec, execSneByte, bne]

/-! ### The obligations -/

/-- Settles O9: the equations of the Engine's turn give the step, `step_cases` its converse, and an
induction over the run the permanence. -/
theorem engineStepsOnlyWhileRunning : Obligations.EngineStepsOnlyWhileRunning := by
  refine ⟨fun s turn => ⟨⟨?_, exists_step_of_running turn⟩, fun _ _ running => step_of_flight turn running⟩,
    fun s t k => reaches_status_of_stopped⟩
  rintro ⟨t, next⟩
  exact running_of_engine_step turn next

/-- Settles O7, one equation of the Engine's turn per clause. -/
theorem engineStepFollowsTheCycle : Obligations.EngineStepFollowsTheCycle :=
  fun _ turn running idle =>
    ⟨fun _ _ => step_of_instr turn running idle, step_of_badFetch turn running idle,
      fun _ _ => step_of_illegal turn running idle⟩

/-- Settles O8: the fault stands in the state with the turn taken and pc advanced, and neither touches
the rest. -/
theorem illegalWordChangesOnlyPcAndStatus : Obligations.IllegalWordChangesOnlyPcAndStatus := by
  intro s w why turn running idle fetch decode
  refine ⟨_, step_of_illegal turn running idle fetch decode, rfl, rfl, ?_⟩
  exact ⟨fun _ _ => rfl, rfl, rfl, fun _ => rfl, ⟨rfl, rfl⟩, ⟨rfl, rfl⟩, idle, rfl, rfl, rfl, rfl, rfl⟩

/-- Settles O13: the jump is one `goto`. -/
theorem jumpSetsPc : Obligations.JumpSetsPc :=
  ⟨decodeWord_jp, fun nnn s => ⟨_, exec_jp nnn s, rfl, goto_onlyPc s nnn⟩⟩

/-- Settles O17: each skip is one `goto`, to the next instruction or past it. -/
theorem immediateSkips : Obligations.ImmediateSkips :=
  ⟨fun x nn => ⟨decodeWord_seByte x nn, decodeWord_sneByte x nn⟩,
    fun x nn s => ⟨⟨_, exec_seByte x nn s, rfl, goto_onlyPc s _⟩,
      ⟨_, exec_sneByte x nn s, rfl, goto_onlyPc s _⟩⟩⟩

end Sys2Proof.Machine

/-!
PROOFS. Register loads and the 8XYN arithmetic (41_register_alu.md): the frames of one register write and
of `WriteResultAndFlag`, the results and flags as numbers, and the instructions that make these writes.
-/

namespace Sys2Proof.Machine

/-! ### What the two shared writes leave unchanged (R20, R131) -/

/-- An update of the register file alone keeps everything but registers. -/
theorem onlyRegs_of_sameRegsBut {s : State} {v : Vector Byte 16} {rs : List RegIdx}
    (same : SameRegsBut rs s { s with v := v }) : OnlyRegs rs s { s with v := v } :=
  ⟨same, rfl, rfl, rfl, fun _ => rfl, ⟨rfl, rfl⟩, ⟨rfl, rfl⟩, ⟨rfl, rfl⟩, rfl, rfl⟩

theorem setV_onlyRegs (s : State) (x : RegIdx) (b : Byte) : OnlyRegs [x] s (s.setV x b) := by
  refine onlyRegs_of_sameRegsBut fun r other => ?_
  rw [List.mem_singleton] at other
  exact (s.setV_V x r b).trans (if_neg other)

theorem writeResultAndFlag_onlyRegs (s : State) (x : RegIdx) (b : Byte) (f : Bool) :
    OnlyRegs [x, vF] s (s.writeResultAndFlag x b f) := by
  have same : SameRegsBut [x, vF] s (s.writeResultAndFlag x b f) := by
    intro r other
    simp only [List.mem_cons, List.not_mem_nil, or_false, not_or] at other
    obtain ⟨notX, notVF⟩ := other
    simp [State.writeResultAndFlag_V, notX, notVF]
  rw [State.writeResultAndFlag_eq] at same ⊢
  exact onlyRegs_of_sameRegsBut same

/-- `WriteResultAndFlag` leaves the numbers its two bytes stand for (R131). -/
theorem writeResultAndFlag_resultAndFlag (s : State) (x : RegIdx) {b : Byte} {f : Bool} {r n : Nat}
    (result : b.toNat = r) (flag : (flagByte f).toNat = n) :
    ResultAndFlag x r n s (s.writeResultAndFlag x b f) := by
  subst result flag
  refine ⟨fun ne => ⟨?_, ?_⟩, ?_, writeResultAndFlag_onlyRegs s x b f⟩
  · simp [State.writeResultAndFlag_V, ne]
  · simp [State.writeResultAndFlag_V, Ne.symm ne]
  · rintro rfl
    cases order : s.cfg.flagOrder <;> simp [State.writeResultAndFlag_V, order]

/-! ### Results and flags as numbers (R11, R138 to R142) -/

theorem toNat_flagByte_decide (p : Prop) [Decidable p] :
    (flagByte (decide p)).toNat = if p then 1 else 0 := by
  by_cases h : p <;> simp [h]

theorem toNat_carryOut (a b : Byte) :
    (flagByte (carryOut a b)).toNat = if 255 < a.toNat + b.toNat then 1 else 0 :=
  toNat_flagByte_decide _

/-- The exact difference, narrowed to a byte. -/
theorem toNat_difference (a b : Byte) :
    (BitVec.ofInt 8 (a.toNat - b.toNat)).toNat = (a.toNat + 256 - b.toNat) % 256 := by
  rw [BitVec.toNat_ofInt]
  have := b.isLt
  omega

theorem toNat_differencePositive (a b : Byte) :
    (flagByte (differencePositive a b)).toNat = if b.toNat < a.toNat then 1 else 0 := by
  rw [differencePositive, toNat_flagByte_decide]
  simp

theorem toNat_shiftedRight (a : Byte) : (a >>> 1).toNat = a.toNat / 2 := by
  rw [BitVec.toNat_ushiftRight, Nat.shiftRight_one]

theorem toNat_shiftedOutRight (a : Byte) : (flagByte (shiftedOutRight a)).toNat = a.toNat % 2 := by
  have bit : shiftedOutRight a = decide (a.toNat % 2 = 1) := Nat.testBit_zero a.toNat
  rw [bit, toNat_flagByte_decide]
  split <;> omega

theorem toNat_shiftedLeft (a : Byte) : (a <<< 1).toNat = 2 * a.toNat % 256 := by
  rw [BitVec.toNat_shiftLeft, Nat.shiftLeft_eq, Nat.pow_one, Nat.mul_comm]

theorem toNat_shiftedOutLeft (a : Byte) : (flagByte (shiftedOutLeft a)).toNat = a.toNat / 128 := by
  have bit : shiftedOutLeft a = decide (a.toNat / 128 % 2 = 1) := Nat.testBit_eq_decide_div_mod_eq
  have := a.isLt
  rw [bit, toNat_flagByte_decide]
  split <;> omega

/-! ### Encodings (R73, R75) -/

theorem decodeWord_ldByte (x : BitVec 4) (nn : Byte) :
    decodeWord (0b0110#4 ++ x ++ nn) = .instr (.ldByte x.toFin nn) := by
  simp [← encodeXK_eq, decodeWord]

theorem decodeWord_addByte (x : BitVec 4) (nn : Byte) :
    decodeWord (0b0111#4 ++ x ++ nn) = .instr (.addByte x.toFin nn) := by
  simp [← encodeXK_eq, decodeWord]

/-- A word of family 8 is decoded by its low nibble (R74). -/
theorem decodeWord_family8 (x y n : BitVec 4) :
    decodeWord (0b1000#4 ++ x ++ y ++ n) = decode8 (encodeXYN 0b1000#4 x.toFin y.toFin n) := by
  simp [← encodeXYN_eq, decodeWord]

/-! ### The meanings as writes, one equation per instruction -/

section Meanings

variable (x y : RegIdx) (nn : Byte) (s : State)

theorem exec_ldByte : exec (.ldByte x nn) s = .next (s.setV x nn) := rfl

theorem exec_addByte :
    exec (.addByte x nn) s = .next (s.setV x (BitVec.ofNat 8 ((s.V x).toNat + nn.toNat))) := rfl

theorem exec_addReg : exec (.addReg x y) s = .next
    (s.writeResultAndFlag x (BitVec.ofNat 8 ((s.V x).toNat + (s.V y).toNat))
      (carryOut (s.V x) (s.V y))) := rfl

theorem exec_subReg : exec (.subReg x y) s = .next
    (s.writeResultAndFlag x (BitVec.ofInt 8 ((s.V x).toNat - (s.V y).toNat))
      (differencePositive (s.V x) (s.V y))) := rfl

theorem exec_subnReg : exec (.subnReg x y) s = .next
    (s.writeResultAndFlag x (BitVec.ofInt 8 ((s.V y).toNat - (s.V x).toNat))
      (differencePositive (s.V y) (s.V x))) := rfl

theorem exec_shr : exec (.shr x y) s =
    .next (s.writeResultAndFlag x (s.V x >>> 1) (shiftedOutRight (s.V x))) := rfl

theorem exec_shl : exec (.shl x y) s =
    .next (s.writeResultAndFlag x (s.V x <<< 1) (shiftedOutLeft (s.V x))) := rfl

end Meanings

/-! ### The obligations -/

/-- Settles O19: each meaning is one register write, and the byte written is the sum modulo 256. -/
theorem immediateLoadAndAdd : Obligations.ImmediateLoadAndAdd := by
  refine ⟨fun x nn => ⟨decodeWord_ldByte x nn, decodeWord_addByte x nn⟩, fun x nn s => ⟨?_, ?_⟩⟩
  · exact ⟨_, exec_ldByte x nn s, by simp, setV_onlyRegs s x _⟩
  · exact ⟨_, exec_addByte x nn s, by simp, setV_onlyRegs s x _⟩

/-- Settles O21: the narrowed sum and its carry, written by `WriteResultAndFlag`. -/
theorem addSetsCarry : Obligations.AddSetsCarry := by
  refine ⟨fun x y => by simp [decodeWord_family8, decode8], fun x y s => ?_⟩
  exact ⟨_, exec_addReg x y s,
    writeResultAndFlag_resultAndFlag s x (BitVec.toNat_ofNat _ 8) (toNat_carryOut _ _)⟩

/-- Settles O22: the narrowed difference and its sign, with the operands in either order. -/
theorem subtractSetsStrictFlag : Obligations.SubtractSetsStrictFlag := by
  refine ⟨fun x y => by simp [decodeWord_family8, decode8], fun x y s => ⟨?_, ?_⟩⟩
  · exact ⟨_, exec_subReg x y s, writeResultAndFlag_resultAndFlag s x (toNat_difference _ _)
      (toNat_differencePositive _ _)⟩
  · exact ⟨_, exec_subnReg x y s, writeResultAndFlag_resultAndFlag s x (toNat_difference _ _)
      (toNat_differencePositive _ _)⟩

/-- Settles O23: both results and flags come from VX alone, so the equations of the meanings agree for
every Y. -/
theorem shiftsMoveTheBitOutToVF : Obligations.ShiftsMoveTheBitOutToVF := by
  refine ⟨fun x y => by simp [decodeWord_family8, decode8], fun x y s => ⟨?_, ?_, fun z => ?_⟩⟩
  · exact ⟨_, exec_shr x y s, writeResultAndFlag_resultAndFlag s x (toNat_shiftedRight _)
      (toNat_shiftedOutRight _)⟩
  · exact ⟨_, exec_shl x y s, writeResultAndFlag_resultAndFlag s x (toNat_shiftedLeft _)
      (toNat_shiftedOutLeft _)⟩
  · exact ⟨(exec_shr x y s).trans (exec_shr x z s).symm, (exec_shl x y s).trans (exec_shl x z s).symm⟩

end Sys2Proof.Machine

/-!
PROOFS. The display (spec/42_display.md): what one plot at a pixel of the grid does to every pixel, and
what it reports.
-/

namespace Sys2Proof.Machine

/-- At a pixel of the grid, clipping removes nothing (R163). -/
theorem plotClipped_val (g : Grid) (r : Fin 32) (c : Fin 64) (bit : Bool) :
    plotClipped g r.val c.val bit = plotXor g r c bit :=
  dif_pos ⟨r.isLt, c.isLt⟩

/-- A plot XORs its pixel with the bit and leaves every other pixel as it was (R162). -/
theorem plotXor_pixel (g : Grid) (r r' : Fin 32) (c c' : Fin 64) (bit : Bool) :
    (plotXor g r c bit).1.pixel r' c' =
      if r' = r ∧ c' = c then g.pixel r' c' ^^ bit else g.pixel r' c' := by
  simpa only [plotClipped_val, Fin.ext_iff] using plotClipped_pixel g r.val c.val bit r' c'

/-- A plot reports a collision exactly when the bit is 1 and the pixel was set (R162). -/
theorem plotXor_report (g : Grid) (r : Fin 32) (c : Fin 64) (bit : Bool) :
    (plotXor g r c bit).2 = true ↔ bit = true ∧ g.pixel r c = true := by
  simpa [plotClipped_val] using plotClipped_report g r.val c.val bit

/-- Settles O31: a set pixel is unset after the XOR exactly when the bit is 1, which is when the plot
reports it. -/
theorem plotXorFlipsOnePixel : Obligations.PlotXorFlipsOnePixel := by
  intro g r r' c c' bit
  constructor
  · rw [plotXor_pixel]
    refine ite_congr rfl ?_ fun _ => rfl
    rintro ⟨rfl, rfl⟩
    rfl
  · rw [plotXor_report, plotXor_pixel, if_pos ⟨rfl, rfl⟩]
    cases bit with
    | false => simp
    | true => simp

end Sys2Proof.Machine

/-!
PROOFS. The index register and memory transfers (44_index_memory.md): the load of I, and the register
block loaded from memory, whole or up to the first address out of bounds.
-/

namespace Sys2Proof.Machine

/-! ### The load of I (R200) -/

theorem decodeWord_ldI (nnn : BitVec 12) : decodeWord (0b1010#4 ++ nnn) = .instr (.ldI nnn.toNat) := by
  have fits : nnn.toNat % 0x1000 = nnn.toNat := Nat.mod_eq_of_lt nnn.isLt
  simp [← encodeA_eq, decodeWord, fieldNNN_encodeA, fits]

theorem exec_ldI (nnn : Nat) (s : State) : exec (.ldI nnn) s = .next (s.setI nnn) := rfl

theorem setI_onlyIndexAndRegs (s : State) (n : Nat) : OnlyIndexAndRegs [] s (s.setI n) :=
  ⟨fun _ _ => rfl, rfl, rfl, fun _ => rfl, ⟨rfl, rfl⟩, ⟨rfl, rfl⟩, ⟨rfl, rfl⟩, rfl, rfl⟩

/-- I holds a 16-bit number as it is (R24). -/
theorem setI_i_toNat (s : State) {n : Nat} (fits : n < 0x10000) : (s.setI n).i.toNat = n := by
  rw [State.setI_i, BitVec.toNat_ofNat, Nat.mod_eq_of_lt fits]

/-! ### The first registers of the file -/

theorem idxOf_allRegs (r : RegIdx) : allRegs.idxOf r = r.val :=
  (by decide : ∀ r : Fin 16, allRegs.idxOf r = r.val) r

theorem mem_allRegs (r : RegIdx) : r ∈ allRegs :=
  (by decide : ∀ r : Fin 16, r ∈ allRegs) r

theorem mem_take_allRegs {n : Nat} {r : RegIdx} : r ∈ allRegs.take n ↔ r.val < n := by
  rw [List.mem_take_iff_idxOf_lt (mem_allRegs r), idxOf_allRegs]

theorem take_regsUpTo {n : Nat} {x : RegIdx} (fewer : n ≤ x.val) :
    (regsUpTo x).take n = allRegs.take n := by
  rw [regsUpTo, List.take_take, Nat.min_eq_left (Nat.le_succ_of_le fewer)]

/-! ### A block that lies in memory, and one that does not (R207, R221) -/

section Block

variable {s : State} {a : Nat}

/-- A block that lies in memory changes its registers and nothing else. -/
theorem loadBlock_onlyRegs {rs : List RegIdx} (fits : rs = [] ∨ a + rs.length ≤ s.cfg.memSize) :
    OnlyRegs rs s (s.loadBlock a rs) := by
  have same : SameRegsBut rs s (s.loadBlock a rs) := fun _ => State.loadBlock_V_other
  rw [State.loadBlock_frame, State.loadBlock_status fits] at same ⊢
  exact onlyRegs_of_sameRegsBut same

/-- A register among the first `n` gets its byte when those `n` bytes lie in memory. -/
theorem loadBlock_take_allRegs_V {n : Nat} {r : RegIdx} (loaded : r.val < n) (few : n ≤ 16)
    (fits : a + n ≤ s.cfg.memSize) :
    (s.loadBlock a (allRegs.take n)).V r = s.mem.read (a + r.val) := by
  have len : (allRegs.take n).length = n := by simp [allRegs, few]
  have nodup : (allRegs.take n).Nodup := (List.take_sublist n allRegs).nodup (by decide)
  have atIdx : (allRegs.take n)[r.val] = r := by
    simp only [← idxOf_allRegs r, List.getElem_take, List.getElem_idxOf]
  have byte := State.loadBlock_V (s := s) (a := a) nodup (len.symm ▸ fits) (len.symm ▸ loaded)
  rwa [atIdx] at byte

/-- A block that runs past the end of memory loads the registers whose bytes lie in memory and then faults
at the first address out of bounds. -/
theorem loadBlock_fault {rs : List RegIdx} (nonempty : rs ≠ []) (past : s.cfg.memSize < a + rs.length) :
    s.loadBlock a rs = (s.loadBlock a (rs.take (s.cfg.memSize - a))).raise
      .memReadOutOfBounds (max a s.cfg.memSize) s.instrAddr := by
  induction rs generalizing s a with
  | nil => exact absurd rfl nonempty
  | cons r rs ih =>
    rw [List.length_cons] at past
    by_cases inside : a < s.cfg.memSize
    · have more : rs ≠ [] := by rintro rfl; simp at past; omega
      have room : s.cfg.memSize - a = s.cfg.memSize - (a + 1) + 1 := by omega
      have firstOut : max (a + 1) s.cfg.memSize = max a s.cfg.memSize := by omega
      have rest := ih (s := s.setV r (s.readByte a)) (a := a + 1) more (by rw [State.setV_cfg]; omega)
      rw [State.setV_cfg, firstOut] at rest
      simpa [State.loadBlock, State.instrAddr, inside, room] using rest
    · have noRoom : s.cfg.memSize - a = 0 := by omega
      have firstOut : max a s.cfg.memSize = a := by omega
      simp [State.loadBlock, inside, noRoom, firstOut]

/-- A fault raised after register writes alone leaves the rest to be found unchanged (R221). -/
theorem raise_faultFrame {rs : List RegIdx} {t : State} (only : OnlyRegs rs s t) (why : FaultReason)
    (info addr : Nat) : FaultFrame allRegs 0 0 s (t.raise why info addr) := by
  obtain ⟨-, i, pc, stack, mem, disp, timers, ⟨-, flight⟩, outside⟩ := only
  exact ⟨fun r other => absurd (mem_allRegs r) other, i, pc, stack, fun b _ => mem b, disp, timers, flight,
    outside⟩

end Block

/-! ### FX65 (R207) -/

theorem decodeWord_loadRegs (x : BitVec 4) :
    decodeWord (0b1111#4 ++ x ++ 0b01100101#8) = .instr (.loadRegs x.toFin) := by
  simp [← encodeXK_eq, decodeWord, decodeF]

section LoadRegs

variable (x : RegIdx) (s : State)

/-- Addresses of a block are counted from its first (R56). -/
theorem effectiveAddr_eq_add (k : Nat) : s.effectiveAddr k = s.effectiveAddr 0 + k := rfl

theorem exec_loadRegs :
    exec (.loadRegs x) s = .next (s.loadBlock (s.effectiveAddr 0) (regsUpTo x)) := rfl

variable {x s}

/-- Past the end of memory, FX65 loads the registers whose bytes lie in memory and faults. -/
theorem exec_loadRegs_fault (past : s.cfg.memSize ≤ s.effectiveAddr x.val) :
    exec (.loadRegs x) s = .next ((s.loadBlock (s.effectiveAddr 0)
      (allRegs.take (s.cfg.memSize - s.effectiveAddr 0))).raise
        .memReadOutOfBounds (max (s.effectiveAddr 0) s.cfg.memSize) (s.pc - 2)) := by
  rw [effectiveAddr_eq_add] at past
  have nonempty : regsUpTo x ≠ [] := List.ne_nil_of_length_eq_add_one (regsUpTo_length x)
  rw [exec_loadRegs, loadBlock_fault nonempty (by rw [regsUpTo_length]; omega), take_regsUpTo (by omega)]
  rfl

end LoadRegs

/-! ### The obligations -/

/-- Settles O47: the load is one write of I. -/
theorem loadIndex : Obligations.LoadIndex := by
  refine ⟨decodeWord_ldI, fun nnn s small => ⟨_, exec_ldI nnn s, ?_, setI_onlyIndexAndRegs s nnn⟩⟩
  exact setI_i_toNat s (by omega)

/-- Settles O52: a block that fits is the first X + 1 registers, one that does not is those whose bytes lie
in memory, and then the fault. -/
theorem registerBlockLoaded : Obligations.RegisterBlockLoaded := by
  refine ⟨decodeWord_loadRegs, fun x s => ⟨fun fits => ?_, fun past => ?_⟩⟩
  · have within : s.effectiveAddr 0 + (x.val + 1) ≤ s.cfg.memSize := fits
    refine ⟨_, exec_loadRegs x s, fun k le => ?_, loadBlock_onlyRegs (.inr ?_)⟩
    · exact loadBlock_take_allRegs_V (Nat.lt_succ_of_le le) x.isLt within
    · rwa [regsUpTo_length]
  · have few : s.cfg.memSize - s.effectiveAddr 0 ≤ x.val := by
      rw [effectiveAddr_eq_add] at past; omega
    refine ⟨_, exec_loadRegs_fault past, rfl, fun k inside => ?_, fun k outside => ?_,
      raise_faultFrame (loadBlock_onlyRegs ?_) _ _ _⟩
    · rw [effectiveAddr_eq_add] at inside
      exact loadBlock_take_allRegs_V (by omega) (by omega) (by omega)
    · rw [effectiveAddr_eq_add] at outside
      exact State.loadBlock_V_other (mt mem_take_allRegs.mp (by omega))
    · rw [List.take_eq_nil_iff, List.length_take]
      omega

end Sys2Proof.Machine

/-!
PROOFS. The decoder and the encoder (30_encoding.md): each is the other's inverse, and the rows of the opcode
table are told apart by the decoder.
-/

namespace Sys2Proof

/-! ### Decoding an encoded instruction (R71, R73, R75) -/

theorem fieldNNN_encodeA_of_fits {n : Nat} (fits : addrFits n = true) (f : BitVec 4) :
    fieldNNN (encodeA f n) = n := by
  rw [fieldNNN_encodeA, Nat.mod_eq_of_lt (of_decide_eq_true fits)]

/-- Family by family, the decoder finds the fields where the format put them. -/
theorem decodeWord_encode (i : Instr) (fits : i.wf = true) : decodeWord (encode i) = .instr i := by
  cases i with
  | cls | ret => decide
  | jp nnn | call nnn | ldI nnn | jpV0 nnn =>
    simp [encode, decodeWord, fieldNNN_encodeA_of_fits fits]
  | seByte x nn | sneByte x nn | ldByte x nn | addByte x nn | rnd x nn => simp [encode, decodeWord]
  | seReg x y | sneReg x y => simp [encode, decodeWord]
  | drw x y n => simp [encode, decodeWord, Nat.mod_eq_of_lt (of_decide_eq_true fits)]
  | ldReg x y | orReg x y | andReg x y | xorReg x y | addReg x y | subReg x y | shr x y | subnReg x y
  | shl x y => simp [encode, decodeWord, decode8]
  | skp x | sknp x => simp [encode, decodeWord, decodeE]
  | ldVxDT x | ldVxK x | ldDTVx x | ldSTVx x | addI x | ldF x | ldB x | storeRegs x | loadRegs x =>
    simp [encode, decodeWord, decodeF]

/-! ### Encoding a decoded word (R71, R73) -/

section Fields

variable {w : Word} {f : BitVec 4} (family : (familyOf w).toNat = f.toNat)
include family

/-- A word of format A is its family and its address. -/
theorem encodeA_of_family : encodeA f (fieldNNN w) = w := by
  rw [← BitVec.eq_of_toNat_eq family, encodeA_fields]

/-- A word of format XK is its family, its register and its byte. -/
theorem encodeXK_of_family {nn : Byte} (low : (fieldNN w).toNat = nn.toNat) :
    encodeXK f (fieldX w) nn = w := by
  rw [← BitVec.eq_of_toNat_eq family, ← BitVec.eq_of_toNat_eq low, encodeXK_fields]

/-- A word of format XY or XYN is its family, its registers and its low nibble. -/
theorem encodeXYN_of_family {n : BitVec 4} (low : (fieldN w).toNat = n.toNat) :
    encodeXYN f (fieldX w) (fieldY w) n = w := by
  rw [← BitVec.eq_of_toNat_eq family, ← BitVec.eq_of_toNat_eq low, encodeXYN_fields]

end Fields

theorem addrFits_fieldNNN (w : Word) : addrFits (fieldNNN w) = true :=
  decide_eq_true (w.extractLsb' 0 12).isLt

theorem countFits_fieldN (w : Word) : countFits (fieldN w).toNat = true :=
  decide_eq_true (fieldN w).isLt

/-- The instruction is one the word encodes: well formed, and its encoding is the word. -/
abbrev Encodes (w : Word) (i : Instr) : Prop := i.wf = true ∧ encode i = w

theorem encodes_of_decode0 {w : Word} {i : Instr} (family : (familyOf w).toNat = 0)
    (h : decode0 w = .instr i) : Encodes w i := by
  have whole : encodeA 0 (fieldNNN w) = w := encodeA_of_family family
  unfold decode0 at h
  split at h <;> cases h
  case h_1 low => exact ⟨rfl, by rw [← whole, low]; rfl⟩
  case h_2 low => exact ⟨rfl, by rw [← whole, low]; rfl⟩

theorem encodes_of_decode8 {w : Word} {i : Instr} (family : (familyOf w).toNat = 8)
    (h : decode8 w = .instr i) : Encodes w i := by
  unfold decode8 at h
  split at h <;> cases h
  all_goals rename_i low; exact ⟨rfl, encodeXYN_of_family (f := 8) family low⟩

theorem encodes_of_decodeE {w : Word} {i : Instr} (family : (familyOf w).toNat = 0xE)
    (h : decodeE w = .instr i) : Encodes w i := by
  unfold decodeE at h
  split at h <;> cases h
  all_goals rename_i low; exact ⟨rfl, encodeXK_of_family (f := 0xE) family low⟩

theorem encodes_of_decodeF {w : Word} {i : Instr} (family : (familyOf w).toNat = 0xF)
    (h : decodeF w = .instr i) : Encodes w i := by
  unfold decodeF at h
  split at h <;> cases h
  all_goals rename_i low; exact ⟨rfl, encodeXK_of_family (f := 0xF) family low⟩

theorem encodes_of_decodeWord {w : Word} {i : Instr} (h : decodeWord w = .instr i) : Encodes w i := by
  unfold decodeWord at h
  split at h
  all_goals rename_i family
  case h_1 => exact encodes_of_decode0 family h
  case h_9 => exact encodes_of_decode8 family h
  case h_15 => exact encodes_of_decodeE family h
  case h_2 | h_3 | h_11 | h_12 =>
    cases h
    exact ⟨addrFits_fieldNNN w, encodeA_of_family family⟩
  case h_4 | h_5 | h_7 | h_8 | h_13 =>
    cases h
    exact ⟨rfl, encodeXK_of_family family rfl⟩
  case h_14 =>
    cases h
    exact ⟨countFits_fieldN w, encodeXYN_of_family family (by simp)⟩
  case h_6 | h_10 =>
    split at h <;> cases h
    rename_i low
    exact ⟨rfl, encodeXYN_of_family family (congrArg BitVec.toNat low)⟩
  case h_16 =>
    have last : (familyOf w).toNat = 0xF := by
      have := (familyOf w).isLt
      simp only [imp_false] at *
      omega
    exact encodes_of_decodeF last h

/-! ### The rows of the opcode table (R75) -/

/-- The fixed bits of a row in a field are the word's own. -/
theorem field_of_rowMatches {w : Word} {row : OpcodeRow} (h : rowMatches w row = true) (lo len : Nat) :
    w.extractLsb' lo len &&& row.1.extractLsb' lo len = row.2.extractLsb' lo len := by
  rw [← BitVec.extractLsb'_and, eq_of_beq h]

/-- The rows differ in a bit that both fix. -/
abbrev RowsDiffer (row row' : OpcodeRow) : Prop := row.2 &&& row'.1 ≠ row'.2 &&& row.1

theorem opcodeTable_differ : opcodeTable.Pairwise RowsDiffer := by
  decide +kernel

theorem opcodeTable_nodup : opcodeTable.Nodup :=
  opcodeTable_differ.imp fun differ same => differ (by rw [same])

/-- A word lies in no two rows of the table. -/
theorem row_unique {w : Word} {row row' : OpcodeRow} (mem : row ∈ opcodeTable) (mem' : row' ∈ opcodeTable)
    (h : rowMatches w row = true) (h' : rowMatches w row' = true) : row = row' := by
  have symm : Std.Symm RowsDiffer := ⟨fun _ _ => Ne.symm⟩
  by_contra different
  refine opcodeTable_differ.forall mem mem' different ?_
  rw [← eq_of_beq h, ← eq_of_beq h', BitVec.and_assoc, BitVec.and_assoc, BitVec.and_comm row.1]

/-- Every row of the table fixes the family. -/
theorem familyOf_of_rowMatches {w : Word} {row : OpcodeRow} (mem : row ∈ opcodeTable)
    (h : rowMatches w row = true) : familyOf w = familyOf row.2 := by
  have mask : ∀ row ∈ opcodeTable, row.1.extractLsb' 12 4 = 0xF#4 := by
    simp [opcodeTable, wideRows, registerPairRows, subOpcodeRows]
  have fixed := field_of_rowMatches h 12 4
  rwa [mask row mem, Laws.TableRow.and_ones4] at fixed

theorem exists_instr_of_wideRow {w : Word} {row : OpcodeRow} (mem : row ∈ wideRows)
    (h : rowMatches w row = true) : ∃ i, decodeWord w = .instr i := by
  have family : familyOf w = familyOf row.2 := familyOf_of_rowMatches (by simp [opcodeTable, mem]) h
  have address : fieldNNN w &&& fieldNNN row.1 = fieldNNN row.2 := by
    rw [fieldNNN, fieldNNN, fieldNNN, ← BitVec.toNat_and, field_of_rowMatches h 0 12]
  simp only [decodeWord, decode0, family]
  have masked : fieldNNN w &&& 0xFFF = fieldNNN w :=
    Nat.and_two_pow_sub_one_of_lt_two_pow (n := 12) (w.extractLsb' 0 12).isLt
  fin_cases mem
  · exact ⟨.cls, by rw [masked.symm.trans address]; rfl⟩
  · exact ⟨.ret, by rw [masked.symm.trans address]; rfl⟩
  all_goals exact ⟨_, rfl⟩

theorem exists_instr_of_registerPairRow {w : Word} {row : OpcodeRow} (mem : row ∈ registerPairRows)
    (h : rowMatches w row = true) : ∃ i, decodeWord w = .instr i := by
  have family : familyOf w = familyOf row.2 := familyOf_of_rowMatches (by simp [opcodeTable, mem]) h
  have mask : ∀ row ∈ registerPairRows, row.1.extractLsb' 0 4 = 0xF#4 := by
    simp [registerPairRows]
  have low : fieldN w = fieldN row.2 := by
    have fixed := field_of_rowMatches h 0 4
    rwa [mask row mem, Laws.TableRow.and_ones4] at fixed
  simp only [decodeWord, decode8, family, low]
  clear * - mem
  fin_cases mem <;> exact ⟨_, rfl⟩

theorem exists_instr_of_subOpcodeRow {w : Word} {row : OpcodeRow} (mem : row ∈ subOpcodeRows)
    (h : rowMatches w row = true) : ∃ i, decodeWord w = .instr i := by
  have family : familyOf w = familyOf row.2 := familyOf_of_rowMatches (by simp [opcodeTable, mem]) h
  have mask : ∀ row ∈ subOpcodeRows, row.1.extractLsb' 0 8 = 0xFF#8 := by
    simp [subOpcodeRows]
  have low : fieldNN w = fieldNN row.2 := by
    have fixed := field_of_rowMatches h 0 8
    rwa [mask row mem, Laws.TableRow.and_ones8] at fixed
  simp only [decodeWord, decodeE, decodeF, family, low]
  clear * - mem
  fin_cases mem <;> exact ⟨_, rfl⟩

/-- A word with a row of the table is legal. -/
theorem exists_instr_of_row {w : Word} {row : OpcodeRow} (mem : row ∈ opcodeTable)
    (h : rowMatches w row = true) : ∃ i, decodeWord w = .instr i := by
  rw [opcodeTable, List.mem_append, List.mem_append] at mem
  obtain (wide | pair) | sub := mem
  · exact exists_instr_of_wideRow wide h
  · exact exists_instr_of_registerPairRow pair h
  · exact exists_instr_of_subOpcodeRow sub h

/-- The word of an instruction lies in the instruction's row (`Laws.TableRow`, gathered). -/
theorem row_of_encode (i : Instr) : Laws.TableRow.Statement i :=
  open Laws.TableRow in
  match i with
  | .cls => cls | .ret => ret | .jp n => jp n | .call n => call n | .seByte x nn => seByte x nn
  | .sneByte x nn => sneByte x nn | .seReg x y => seReg x y | .ldByte x nn => ldByte x nn
  | .addByte x nn => addByte x nn | .ldReg x y => ldReg x y | .orReg x y => orReg x y
  | .andReg x y => andReg x y | .xorReg x y => xorReg x y | .addReg x y => addReg x y
  | .subReg x y => subReg x y | .shr x y => shr x y | .subnReg x y => subnReg x y | .shl x y => shl x y
  | .sneReg x y => sneReg x y | .ldI n => ldI n | .jpV0 n => jpV0 n | .rnd x nn => rnd x nn
  | .drw x y n => drw x y n | .skp x => skp x | .sknp x => sknp x | .ldVxDT x => ldVxDT x
  | .ldVxK x => ldVxK x | .ldDTVx x => ldDTVx x | .ldSTVx x => ldSTVx x | .addI x => addI x
  | .ldF x => ldF x | .ldB x => ldB x | .storeRegs x => storeRegs x | .loadRegs x => loadRegs x

/-! ### The obligations -/

/-- Settles O1, by cases on the instruction. -/
theorem decodeOfEncodeIsIdentity : Obligations.DecodeOfEncodeIsIdentity := decodeWord_encode

/-- Settles O2: each format loses no bit of a word. -/
theorem encodeOfDecodeIsIdentity : Obligations.EncodeOfDecodeIsIdentity :=
  fun _ _ => encodes_of_decodeWord

/-- Settles O3: a legal word lies in its instruction's row, rows exclude each other, and a word that lies in
a row is legal. -/
theorem legalWordsMatchExactlyOneRow : Obligations.LegalWordsMatchExactlyOneRow := by
  intro w
  cases decode : decodeWord w with
  | instr i =>
    obtain ⟨-, rfl⟩ := encodes_of_decodeWord decode
    obtain ⟨inTable, inRow⟩ := row_of_encode i
    refine List.perm_singleton.mp ((List.perm_ext_iff_of_nodup (opcodeTable_nodup.filter _)
      (List.nodup_singleton _)).mpr fun row => ?_)
    rw [List.mem_filter, List.mem_singleton]
    refine ⟨fun ⟨mem, h⟩ => row_unique mem inTable h inRow, ?_⟩
    rintro rfl
    exact ⟨inTable, inRow⟩
  | illegal why =>
    refine List.filter_eq_nil_iff.mpr fun row mem h => ?_
    obtain ⟨i, legal⟩ := exists_instr_of_row mem h
    rw [legal] at decode
    cases decode

/-- Settles O4: eleven closed facts about the decoder. -/
theorem specWordsDecode : Obligations.SpecWordsDecode := by
  unfold Obligations.SpecWordsDecode
  decide

/-- Settles O5: the two bytes put together are the encoding. -/
theorem bytesOfAnInstructionDecode : Obligations.BytesOfAnInstructionDecode := by
  intro i rest fits
  simp [encodeBytes, decodeBytes, decodeWord_encode i fits]

end Sys2Proof

/-!
PROOFS. What an instruction can do to the state, said once over all 34, and from it the writers of every part
of the state (R21, R28, R51, R208) and the invariant of the machine.
-/

namespace Sys2Proof.Machine

/-! ### The cases of a meaning -/

/-- The status is the old one or a fault: no such instruction halts. -/
abbrev KeptOrFaulted (s : State) (status : EngineStatus) : Prop :=
  status = s.status ∨ ∃ why info a, status = .faulted why info a

/-- An instruction that asks the host (R6, R8). -/
def AsksHost (i : Instr) : Prop :=
  (∃ x nn, i = .rnd x nn) ∨ ∃ x, i = .skp x ∨ i = .sknp x ∨ i = .ldVxK x

/-- An instruction that writes I (R208). -/
def SetsIndex (i : Instr) : Prop := (∃ nnn, i = .ldI nnn) ∨ (∃ x, i = .addI x) ∨ ∃ x, i = .ldF x

/-- An instruction that stores a block of `n` bytes from I (R51). -/
def StoresBlock (i : Instr) (n : Nat) : Prop :=
  (∃ x, i = .ldB x ∧ n = 3) ∨ ∃ x, i = .storeRegs x ∧ n = x.val + 1

/-- What an instruction that answers a next state did. -/
inductive ExecCase (i : Instr) (s t : State) : Prop where
  /-- Registers written, or a fault, or both: FX65 past the end of memory. -/
  | registers (v : Vector Byte 16) (status : EngineStatus)
      (named : SameRegsBut (regsWritten i) s { s with v := v }) (kept : KeptOrFaulted s status)
      (result : t = { s with v := v, status := status })
  /-- pc moved. -/
  | move (n : Nat) (result : t = s.goto n)
  /-- 00EE with an empty store. -/
  | halt (isRet : i = .ret) (empty : s.stack = []) (result : t = s.halt)
  /-- 00EE with an entry. -/
  | pop (a : Nat) (isRet : i = .ret) (result : t = s.dropTop.goto a)
  /-- 2NNN below the limit. -/
  | call (nnn : Nat) (isCall : i = .call nnn) (room : s.stackFull = false)
      (result : t = (s.push s.pc).goto nnn)
  /-- I written, and VF by FX1E. -/
  | index (n : Nat) (v : Vector Byte 16) (sets : SetsIndex i) (bound : i.wf = true → n ≤ 0xFFF)
      (named : SameRegsBut (regsWritten i) s { s with v := v })
      (result : t = { s with i := BitVec.ofNat 16 n, v := v })
  /-- 00E0. -/
  | clear (isCls : i = .cls) (result : t = s.setDisp Grid.clear)
  /-- DXYN. -/
  | draw (x y : RegIdx) (n : Nat) (g : Grid) (flag : Byte) (isDraw : i = .drw x y n)
      (result : t = ((s.setDisp g).setV vF flag).present)
  /-- A host query, and what is done with its answer. -/
  | ask (v : Vector Byte 16) (pc : Nat) (env : Env) (asks : AsksHost i)
      (named : SameRegsBut (regsWritten i) s { s with v := v })
      (result : t = { s with v := v, pc := pc, env := env })
  /-- The first micro-step of a timer set. -/
  | beginSet (u : TimerId) (x : RegIdx) (isSet : i = timerSetInstr u x)
      (result : t = s.beginTimerSet u (s.V x))
  /-- Bytes stored: those of the block that lie in memory. -/
  | store (n : Nat) (bs : List Byte) (status : EngineStatus) (stores : StoresBlock i n)
      (fits : bs.length ≤ n) (inside : bs = [] ∨ s.effectiveAddr 0 + bs.length ≤ s.cfg.memSize)
      (kept : KeptOrFaulted s status)
      (result : t = { s with mem := s.mem.writeBytes (s.effectiveAddr 0) bs, status := status })

section Cases

variable {i : Instr} {s : State}

/-- A fault, with nothing else changed. -/
theorem execCase_raise (why : FaultReason) (info : Nat) :
    ExecCase i s (s.raise why info s.instrAddr) :=
  .registers s.v _ (fun _ _ => rfl) (.inr ⟨why, info, _, rfl⟩) rfl

/-- One register written. -/
theorem execCase_setV {x : RegIdx} (named : regsWritten i = [x]) (b : Byte) : ExecCase i s (s.setV x b) :=
  .registers _ s.status (named ▸ (setV_onlyRegs s x b).1) (.inl rfl) rfl

/-- A result and its flag written. -/
theorem execCase_writeResultAndFlag {x : RegIdx} (named : regsWritten i = [x, vF]) (b : Byte) (f : Bool) :
    ExecCase i s (s.writeResultAndFlag x b f) := by
  have same := named ▸ (writeResultAndFlag_onlyRegs s x b f).1
  rw [State.writeResultAndFlag_eq] at same ⊢
  exact .registers _ s.status same (.inl rfl) rfl

theorem execCase_storeBytes {n : Nat} (stores : StoresBlock i n) {bs : List Byte} (size : bs.length = n) :
    ExecCase i s (s.storeBytes (s.effectiveAddr 0) bs) := by
  by_cases fits : bs = [] ∨ s.effectiveAddr 0 + bs.length ≤ s.cfg.memSize
  · exact .store n bs s.status stores size.le fits (.inl rfl) (State.storeBytes_ok fits)
  · rw [not_or, not_le] at fits
    refine .store n (bs.take (s.cfg.memSize - s.effectiveAddr 0)) _ stores
      ((List.length_take_le' _ _).trans size.le) ?_ (.inr ⟨_, _, _, rfl⟩) (State.storeBytes_fault fits.1 fits.2)
    rw [List.take_eq_nil_iff, List.length_take]
    omega

theorem execCase_loadBlock {rs : List RegIdx} (named : regsWritten i = rs) (a : Nat) :
    ExecCase i s (s.loadBlock a rs) := by
  have same : SameRegsBut rs s (s.loadBlock a rs) := fun _ => State.loadBlock_V_other
  have kept : KeptOrFaulted s (s.loadBlock a rs).status := by
    by_cases fits : rs = [] ∨ a + rs.length ≤ s.cfg.memSize
    · exact .inl (State.loadBlock_status fits)
    · rw [not_or, not_le] at fits
      exact .inr ⟨_, _, _, congrArg State.status (loadBlock_fault fits.1 fits.2)⟩
  rw [State.loadBlock_frame]
  exact .registers _ _ (named ▸ same) kept rfl

end Cases

/-- Every instruction answers a next state, by one of the cases. -/
theorem exec_spec (i : Instr) (s : State) : ∃ t, exec i s = .next t ∧ ExecCase i s t := by
  have flagKept : ∀ f, SameRegsBut [vF] s (s.setV vF f) := fun f => (setV_onlyRegs s vF f).1
  cases i with
  | cls => exact ⟨_, rfl, .clear rfl rfl⟩
  | ret =>
    cases top : s.stack.getLast? with
    | none =>
      exact ⟨s.halt, by simp [exec, execRet, State.top, top],
        .halt rfl (List.getLast?_eq_none_iff.mp top) rfl⟩
    | some a => exact ⟨s.dropTop.goto a, by simp [exec, execRet, State.top, top], .pop a rfl rfl⟩
  | jp nnn => exact ⟨_, rfl, .move nnn rfl⟩
  | call nnn =>
    cases full : s.stackFull with
    | true => exact ⟨_, if_pos full, execCase_raise _ _⟩
    | false => exact ⟨_, if_neg (by simp [full]), .call nnn rfl full rfl⟩
  | seByte | sneByte | seReg | sneReg | jpV0 => exact ⟨_, rfl, .move _ rfl⟩
  | ldByte | addByte | ldReg | orReg | andReg | xorReg => exact ⟨_, rfl, execCase_setV rfl _⟩
  | addReg | subReg | shr | subnReg | shl => exact ⟨_, rfl, execCase_writeResultAndFlag rfl _ _⟩
  | ldI nnn =>
    refine ⟨_, rfl, .index nnn s.v (.inl ⟨nnn, rfl⟩) (fun fits => ?_) (fun _ _ => rfl) rfl⟩
    exact Nat.le_of_lt_succ (of_decide_eq_true fits)
  | addI x =>
    refine ⟨_, rfl, .index _ _ (.inr (.inl ⟨x, rfl⟩)) (fun _ => ?_) (flagKept _) rfl⟩
    exact Nat.le_of_lt_succ (Nat.mod_lt _ (by decide))
  | ldF x =>
    refine ⟨_, rfl, .index (glyphAddr (s.V x)) s.v (.inr (.inr ⟨x, rfl⟩)) (fun _ => ?_) (fun _ _ => rfl) rfl⟩
    have := (s.V x).isLt
    unfold glyphAddr fontBase
    omega
  | rnd x nn =>
    exact ⟨_, rfl, .ask _ s.pc _ (.inl ⟨x, nn, rfl⟩) (setV_onlyRegs s x _).1 rfl⟩
  | drw x y n =>
    cases rows : s.readBytes (s.effectiveAddr 0) n with
    | error a => exact ⟨_, by simp only [exec, execDrw, rows], execCase_raise .memReadOutOfBounds a⟩
    | ok bs => exact ⟨s.drawRows x y bs, by simp only [exec, execDrw, rows], .draw x y n _ _ rfl rfl⟩
  | skp x =>
    by_cases key : (s.V x).toNat < 16
    · exact ⟨_, dif_pos key, .ask s.v _ _ (.inr ⟨x, .inl rfl⟩) (fun _ _ => rfl) rfl⟩
    · exact ⟨_, dif_neg key, execCase_raise _ _⟩
  | sknp x =>
    by_cases key : (s.V x).toNat < 16
    · exact ⟨_, dif_pos key, .ask s.v _ _ (.inr ⟨x, .inr (.inl rfl)⟩) (fun _ _ => rfl) rfl⟩
    · exact ⟨_, dif_neg key, execCase_raise _ _⟩
  | ldVxDT x =>
    by_cases small : s.timerLoad .dt ≤ 255
    · exact ⟨_, if_pos small, execCase_setV rfl _⟩
    · exact ⟨_, if_neg small, execCase_raise _ _⟩
  | ldVxK x =>
    refine ⟨_, rfl, ?_⟩
    cases s.firstAnswer with
    | none => exact .ask s.v _ _ (.inr ⟨x, .inr (.inr rfl)⟩) (fun _ _ => rfl) rfl
    | some k => exact .ask _ s.pc _ (.inr ⟨x, .inr (.inr rfl)⟩) (setV_onlyRegs s x _).1 rfl
  | ldDTVx x => exact ⟨_, rfl, .beginSet .dt x rfl rfl⟩
  | ldSTVx x => exact ⟨_, rfl, .beginSet .st x rfl rfl⟩
  | ldB x => exact ⟨_, rfl, execCase_storeBytes (.inl ⟨x, rfl, rfl⟩) rfl⟩
  | storeRegs x => exact ⟨_, rfl, execCase_storeBytes (.inr ⟨x, rfl, rfl⟩) (by simp)⟩
  | loadRegs x => exact ⟨_, rfl, execCase_loadBlock rfl _⟩

/-- Every next state of an instruction comes from one of the cases. -/
theorem exec_cases {i : Instr} {s t : State} (h : exec i s = .next t) : ExecCase i s t := by
  obtain ⟨u, hu, case⟩ := exec_spec i s
  obtain rfl : t = u := by simpa using h.symm.trans hu
  exact case

/-! ### The invariant (R10, R24, R33, R50, R106) -/

section Invariant

variable {s : State} (inv : s.Inv)
include inv

theorem State.Inv.timer (u : TimerId) : (s.timer u).Inv s.cfg := by
  cases u with
  | dt => exact inv.delay
  | st => exact inv.sound

theorem State.Inv.setTimer {u : TimerId} {unit : TimerUnit} (sound : unit.Inv s.cfg) :
    (s.setTimer u unit).Inv := by
  cases u with
  | dt => exact { inv with delay := sound }
  | st => exact { inv with sound := sound }

/-- With nothing in flight, the status is free. -/
theorem State.Inv.withStatus (idle : s.setInFlight = none) (status : EngineStatus) :
    State.Inv { s with status := status } :=
  { inv with in_flight := fun flight => absurd idle flight }

/-- Setting the counter alone keeps a unit sound. -/
theorem State.Inv.withCounter (u : TimerId) (c : Nat) : TimerUnit.Inv { s.timer u with c := c } s.cfg :=
  ⟨(inv.timer u).stopped_idle, (inv.timer u).fused_idle⟩

/-- A call below the limit keeps it. -/
theorem State.Inv.push (room : s.stackFull = false) (a : Nat) : (s.push a).Inv := by
  refine { inv with depth := fun d limit => ?_ }
  have below := inv.depth d limit
  have other : d ≠ s.stack.length := by
    rintro rfl
    simp [State.stackFull, show s.cfg.maxCallDepth = _ from limit] at room
  rw [State.push_stack, List.length_append, List.length_singleton]
  omega

theorem State.Inv.dropTop : s.dropTop.Inv := by
  refine { inv with depth := fun d limit => le_trans ?_ (inv.depth d limit) }
  rw [State.dropTop_stack, List.length_dropLast]
  omega

theorem State.Inv.setI {n : Nat} (small : n ≤ 0xFFF) : (s.setI n).Inv :=
  { inv with index := (Nat.mod_le n _).trans small }

theorem State.Inv.writeBytes {a : Nat} {bs : List Byte} (inside : bs = [] ∨ a + bs.length ≤ s.cfg.memSize) :
    State.Inv { s with mem := s.mem.writeBytes a bs } := by
  obtain rfl | inside := inside
  · exact inv
  · exact { inv with
      mem_wf := Memory.writeBytes_wf inv.mem_wf a bs
      mem_within := Memory.writeBytes_within inv.mem_within inside }

end Invariant

/-- A tick leaves its unit sound, whatever it was: the write clears the latch, the read latches only when
ticks are split and the unit is live. -/
theorem TimerUnit.inv_of_tick {unit next : TimerUnit} {cfg : Config} (moved : unit.tick cfg = some next) :
    next.Inv cfg := by
  obtain ⟨r, -, rfl⟩ | ⟨idle, live, ⟨-, rfl⟩ | ⟨-, ⟨-, rfl⟩ | ⟨split, rfl⟩⟩⟩ := TimerUnit.tick_cases moved
  · exact ⟨fun _ => rfl, fun _ => rfl⟩
  · exact ⟨fun _ => idle, fun _ => idle⟩
  · exact ⟨fun _ => idle, fun _ => idle⟩
  · exact ⟨fun stopped => absurd stopped (by simp [live]), fun fused => absurd fused (by simp [split])⟩

/-- No instruction changes the parameters. -/
theorem exec_cfg {i : Instr} {s t : State} (h : exec i s = .next t) : t.cfg = s.cfg := by
  cases exec_cases h with
  | beginSet u x isSet result => rw [result, State.beginTimerSet_cfg]
  | _ => subst_vars; rfl

/-- An instruction that an encoding can hold keeps the invariant. -/
theorem exec_inv {i : Instr} {s t : State} (inv : s.Inv) (running : s.status = .running)
    (idle : s.setInFlight = none) (fits : i.wf = true) (h : exec i s = .next t) : t.Inv := by
  cases exec_cases h with
  | registers v status named kept result => exact result ▸ { inv.withStatus idle status with }
  | move n result => exact result ▸ { inv with }
  | halt isRet empty result => exact result ▸ inv.withStatus idle _
  | pop a isRet result => exact result ▸ { inv.dropTop with }
  | call nnn isCall room result => exact result ▸ { inv.push room s.pc with }
  | index n v sets bound named result => exact result ▸ { inv.setI (bound fits) with }
  | clear isCls result => exact result ▸ { inv with }
  | draw x y n g flag isDraw result => exact result ▸ { inv with }
  | ask v pc env asks named result => exact result ▸ { inv with }
  | beginSet u x isSet result =>
    exact result ▸ { inv.setTimer (inv.withCounter u 0) with
      in_flight := fun _ => (s.beginTimerSet_status u _).trans running }
  | store n bs status stores size inside kept result =>
    exact result ▸ (inv.writeBytes inside).withStatus idle status

/-- The invariant does not look at the turns. -/
theorem State.Inv.afterTurn {s : State} (inv : s.Inv) : s.afterTurn.Inv := { inv with }

theorem State.Inv.advance {s : State} (inv : s.Inv) : s.advance.Inv := { inv with }

theorem step_inv {s t : State} (inv : s.Inv) (h : step s = .next t) : t.Inv := by
  cases step_cases h with
  | add u b turn running flight result =>
    exact result ▸ { inv.afterTurn.setTimer (inv.withCounter u _) with in_flight := fun f => absurd rfl f }
  | badFetch turn running idle fetch result => exact result ▸ inv.afterTurn.withStatus idle _
  | badWord w why turn running idle fetch decode result =>
    exact result ▸ inv.afterTurn.advance.withStatus idle _
  | run w i turn running idle fetch decode result =>
    exact exec_inv inv.afterTurn.advance running idle (encodes_of_decodeWord decode).1 result
  | tick u v turn moved result => exact result ▸ inv.afterTurn.setTimer (TimerUnit.inv_of_tick moved)

theorem step_cfg {s t : State} (h : step s = .next t) : t.cfg = s.cfg := by
  cases step_cases h with
  | add u b turn running flight result => rw [result, State.endTimerSet_cfg, State.afterTurn_cfg]
  | badFetch turn running idle fetch result => rw [result]; rfl
  | badWord w why turn running idle fetch decode result => rw [result]; rfl
  | run w i turn running idle fetch decode result => exact (exec_cfg result).trans rfl
  | tick u v turn moved result => rw [result, State.setTimer_cfg, State.afterTurn_cfg]

/-! ### The writers of each part -/

theorem exec_registers {i : Instr} {s t : State} (h : exec i s = .next t) :
    SameRegsBut (regsWritten i) s t := by
  cases exec_cases h with
  | registers v status named kept result => exact result ▸ named
  | index n v sets bound named result => exact result ▸ named
  | ask v pc env asks named result => exact result ▸ named
  | draw x y n g flag isDraw result =>
    subst isDraw result
    exact (setV_onlyRegs _ vF flag).1
  | beginSet u x isSet result => exact fun r _ => State.V_congr (result ▸ State.beginTimerSet_v s u _) r
  | _ => subst_vars; exact fun _ _ => rfl

theorem exec_index {i : Instr} {s t : State} (h : exec i s = .next t) : t.i = s.i ∨ SetsIndex i := by
  cases exec_cases h with
  | index n v sets => exact .inr sets
  | beginSet u x isSet result => exact .inl (result ▸ State.beginTimerSet_i s u _)
  | _ => subst_vars; exact .inl rfl

theorem exec_stack {i : Instr} {s t : State} (h : exec i s = .next t) :
    t.stack = s.stack ∨ (∃ nnn, i = .call nnn) ∨ i = .ret := by
  cases exec_cases h with
  | call nnn isCall => exact .inr (.inl ⟨nnn, isCall⟩)
  | pop a isRet => exact .inr (.inr isRet)
  | beginSet u x isSet result => exact .inl (result ▸ State.beginTimerSet_stack s u _)
  | _ => subst_vars; exact .inl rfl

theorem exec_mem {i : Instr} {s t : State} (h : exec i s = .next t) :
    t.mem = s.mem ∨ ∃ n bs, StoresBlock i n ∧ bs.length ≤ n ∧
      (bs = [] ∨ s.effectiveAddr 0 + bs.length ≤ s.cfg.memSize) ∧
      t.mem = s.mem.writeBytes (s.effectiveAddr 0) bs := by
  cases exec_cases h with
  | store n bs status stores size inside kept result =>
    exact .inr ⟨n, bs, stores, size, inside, result ▸ rfl⟩
  | beginSet u x isSet result => exact .inl (result ▸ State.beginTimerSet_mem s u _)
  | _ => subst_vars; exact .inl rfl

theorem exec_display {i : Instr} {s t : State} (h : exec i s = .next t) :
    SameDisplay s t ∨ (i = .cls ∧ t.out = s.out) ∨ (∃ x y n, i = .drw x y n) ∧ t.out = s.out ++ [t.disp] := by
  cases exec_cases h with
  | clear isCls result => exact .inr (.inl ⟨isCls, result ▸ rfl⟩)
  | draw x y n g flag isDraw result => exact .inr (.inr ⟨⟨x, y, n, isDraw⟩, result ▸ rfl⟩)
  | beginSet u x isSet result =>
    exact .inl (result ▸ ⟨State.beginTimerSet_disp s u _, State.beginTimerSet_out s u _⟩)
  | _ => subst_vars; exact .inl ⟨rfl, rfl⟩

/-- An instruction leaves the timers and what is in flight alone, or is the first half of a timer set. -/
theorem exec_timers {i : Instr} {s t : State} (h : exec i s = .next t) :
    (SameTimers s t ∧ t.setInFlight = s.setInFlight) ∨
    ∃ u x, i = timerSetInstr u x ∧ t = s.beginTimerSet u (s.V x) := by
  cases exec_cases h with
  | beginSet u x isSet result => exact .inr ⟨u, x, isSet, result⟩
  | _ => subst_vars; exact .inl ⟨⟨rfl, rfl⟩, rfl⟩

theorem exec_env {i : Instr} {s t : State} (h : exec i s = .next t) : t.env = s.env ∨ AsksHost i := by
  cases exec_cases h with
  | ask v pc env asks => exact .inr asks
  | beginSet u x isSet result => exact .inl (result ▸ State.beginTimerSet_env s u _)
  | _ => subst_vars; exact .inl rfl

/-! ### The obligations -/

/-- Settles O59: every case of a step keeps every part of the invariant; the decoder gives only instructions
whose operands fit. -/
theorem everyStepKeepsTheInvariant : Obligations.EveryStepKeepsTheInvariant :=
  fun _ _ inv next => ⟨step_inv inv next, step_cfg next⟩

/-- Settles O25: the cases that write registers name them. -/
theorem registersChangeOnlyWhereNamed : Obligations.RegistersChangeOnlyWhereNamed :=
  fun _ _ _ => exec_registers

/-- Settles O26: one case writes I, two the call frame store. -/
theorem indexAndStackWriters : Obligations.IndexAndStackWriters :=
  fun _ _ _ next => ⟨(exec_index next).resolve_left, (exec_stack next).resolve_left⟩

/-- Settles O27: a byte outside the stored bytes reads as before. -/
theorem memoryWriters : Obligations.MemoryWriters := by
  intro i s t a canonical next changed
  obtain same | ⟨n, bs, stores, size, inside, written⟩ := exec_mem next
  · exact absurd (by rw [same]) changed
  rw [written, Memory.read_writeBytes canonical] at changed
  have hit : s.effectiveAddr 0 ≤ a ∧ a < s.effectiveAddr 0 + bs.length := by
    by_contra missed
    exact changed (if_neg missed)
  have below : a < s.cfg.memSize := by
    obtain rfl | inside := inside
    · simp at hit; omega
    · omega
  refine ⟨hit.1, below, ?_⟩
  obtain ⟨x, isStore, rfl⟩ | ⟨x, isStore, rfl⟩ := stores
  · exact .inl ⟨x, isStore, by rw [effectiveAddr_eq_add]; omega⟩
  · exact .inr ⟨x, isStore, by rw [effectiveAddr_eq_add]; omega⟩

/-- Settles O28: one case clears, one draws and presents what it drew. -/
theorem displayWriters : Obligations.DisplayWriters := by
  intro i s t next
  obtain ⟨disp, out⟩ | ⟨isCls, out⟩ | ⟨isDraw, out⟩ := exec_display next
  · exact ⟨fun changed => absurd disp changed, fun changed => absurd out changed⟩
  · exact ⟨fun _ => .inl isCls, fun changed => absurd out changed⟩
  · exact ⟨fun _ => .inr isDraw, fun _ => ⟨isDraw, out⟩⟩

/-- Settles O29: one case begins a timer set, of one unit, and one asks the host. -/
theorem timerAndHostUsers : Obligations.TimerAndHostUsers := by
  intro i s t next
  refine ⟨fun u changed => ?_, fun changed => ?_, (exec_env next).resolve_left, exec_cfg next⟩
  · obtain ⟨⟨dt, st⟩, -⟩ | ⟨u', x, isSet, rfl⟩ := exec_timers next
    · cases u with
      | dt => exact absurd dt changed
      | st => exact absurd st changed
    · obtain rfl : u = u' := by
        by_contra other
        exact changed (by rw [State.beginTimerSet_timer, if_neg other])
      exact ⟨x, isSet⟩
  · obtain ⟨-, flight⟩ | ⟨u, x, isSet, -⟩ := exec_timers next
    · exact absurd flight changed
    · exact ⟨u, x, isSet⟩

end Sys2Proof.Machine

/-!
PROOFS. The timer units and the turns (60_exceptions.md section 6): who has a step, what the micro-steps of ticks
and of timer sets do, their races, and what a stopped machine still changes.
-/

namespace Sys2Proof.Machine

/-! ### The turns without a step, and the ticks (R100, R233) -/

section Turns

variable {s : State}

theorem step_of_halted (turn : s.turn = .engine) (halted : s.status = .halted) :
    step s = .fault .engineHalted := by
  simp [step, turn, agentTurn, engineTurn, halted]

theorem step_of_faulted {reason : FaultReason} {info a : Nat} (turn : s.turn = .engine)
    (faulted : s.status = .faulted reason info a) : step s = .fault (.engineFaulted reason info a) := by
  simp [step, turn, agentTurn, engineTurn, faulted]

variable {u : TimerId} (turn : s.turn = .timer u)
include turn

theorem step_of_tick {unit : TimerUnit} (moved : (s.timer u).tick s.cfg = some unit) :
    step s = .next (s.afterTurn.setTimer u unit) := by
  simp [step, turn, agentTurn, timerTurn, moved]

theorem step_of_noTick (none : (s.timer u).tick s.cfg = none) : step s = .fault (.timerStopped u) := by
  simp [step, turn, agentTurn, timerTurn, none]

/-- A timer unit's turn is its tick, if it has one. -/
theorem exists_step_iff_tick : (∃ t, step s = .next t) ↔ ((s.timer u).tick s.cfg).isSome = true := by
  cases moved : (s.timer u).tick s.cfg with
  | none => simp [step_of_noTick turn moved]
  | some unit => simp [step_of_tick turn moved]

end Turns

theorem exists_step_iff_enabled (s : State) : (∃ t, step s = .next t) ↔ s.enabled s.turn = true := by
  cases turn : s.turn with
  | engine =>
    rw [State.enabled, beq_iff_eq]
    exact ⟨fun ⟨_, next⟩ => running_of_engine_step turn next, exists_step_of_running turn⟩
  | timer u => rw [exists_step_iff_tick turn, TimerUnit.tick_isSome, State.enabled]

/-- A turn is a next state, or the fault that names why its agent is stopped. -/
theorem step_ne_refused (s : State) (r : Refusal) : step s ≠ .refused r := by
  cases turn : s.turn with
  | engine =>
    cases status : s.status with
    | running =>
      obtain ⟨t, next⟩ := exists_step_of_running turn status
      simp [next]
    | halted => simp [step_of_halted turn status]
    | faulted reason info a => simp [step_of_faulted turn status]
  | timer u =>
    cases moved : (s.timer u).tick s.cfg with
    | none => simp [step_of_noTick turn moved]
    | some unit => simp [step_of_tick turn moved]

/-! ### Stopped machines (R239, R246) -/

/-- Nothing but the timer units and the turns taken differs. -/
def OnlyTicks (s t : State) : Prop :=
  t = { s with dt := t.dt, st := t.st, env := t.env } ∧ SameQueries s t

theorem tick_onlyTicks (s : State) (u : TimerId) (unit : TimerUnit) :
    OnlyTicks s (s.afterTurn.setTimer u unit) := by
  cases u <;> exact ⟨rfl, rfl, rfl, rfl, rfl⟩

theorem OnlyTicks.trans {s t u : State} (h : OnlyTicks s t) (h' : OnlyTicks t u) : OnlyTicks s u := by
  obtain ⟨same, held, first, random, queries⟩ := h
  obtain ⟨same', held', first', random', queries'⟩ := h'
  refine ⟨?_, held'.trans held, first'.trans first, random'.trans random, queries'.trans queries⟩
  rw [same', same]

theorem step_onlyTicks_of_stopped {s t : State} (stopped : s.status ≠ .running) (next : step s = .next t) :
    OnlyTicks s t := by
  obtain ⟨-, running⟩ | ⟨u, unit, -, -, rfl⟩ := running_or_tick_of_step next
  · exact absurd running stopped
  · exact tick_onlyTicks s u unit

theorem reaches_onlyTicks_of_stopped {s t : State} {k : Nat} (stopped : s.status ≠ .running)
    (run : Reaches s k t) : OnlyTicks s t := by
  have keep : ∀ u v, u.status ≠ .running ∧ OnlyTicks s u → step u = .next v →
      v.status ≠ .running ∧ OnlyTicks s v := fun u v ⟨still, only⟩ next =>
    ⟨step_status_of_stopped still next ▸ still, only.trans (step_onlyTicks_of_stopped still next)⟩
  exact (reaches_induct keep run ⟨stopped, rfl, rfl, rfl, rfl, rfl⟩).2

/-! ### One unit's frame -/

theorem beginTimerSet_sameButTimer (u : TimerId) (b : Byte) (s : State) :
    SameButTimer u s (s.beginTimerSet u b) := by
  refine ⟨fun u' other => by simp [other], ?_⟩
  simp [SameDisplay, SameQueries]

theorem endTimerSet_sameButTimer (u : TimerId) (b : Byte) (s : State) :
    SameButTimer u s (s.afterTurn.endTimerSet u b) := by
  refine ⟨fun u' other => by simp [other], ?_⟩
  simp [SameDisplay, SameQueries]

theorem tick_sameButTimer (u : TimerId) (unit : TimerUnit) (s : State) :
    SameButTimer u s (s.afterTurn.setTimer u unit) := by
  refine ⟨fun u' other => by simp [other], ?_⟩
  simp [SameDisplay, SameQueries]

theorem SameButTimer.trans {u : TimerId} {s t w : State} (h : SameButTimer u s t) (h' : SameButTimer u t w) :
    SameButTimer u s w := by
  obtain ⟨timers, v, i, pc, stack, mem, ⟨disp, out⟩, status, cfg, held, first, random, queries⟩ := h
  obtain ⟨timers', v', i', pc', stack', mem', ⟨disp', out'⟩, status', cfg', held', first', random', queries'⟩ := h'
  exact ⟨fun u' other => (timers' u' other).trans (timers u' other), v'.trans v, i'.trans i, pc'.trans pc,
    stack'.trans stack, mem'.trans mem, ⟨disp'.trans disp, out'.trans out⟩, status'.trans status,
    cfg'.trans cfg, held'.trans held, first'.trans first, random'.trans random, queries'.trans queries⟩

theorem exec_timerSetInstr (u : TimerId) (x : RegIdx) (s : State) :
    exec (timerSetInstr u x) s = .next (s.beginTimerSet u (s.V x)) := by
  cases u <;> rfl

/-! ### The micro-steps of a tick -/

section Tick

variable {unit : TimerUnit} {cfg : Config}

theorem tick_of_latch {r : Nat} (latch : unit.latch = some r) :
    unit.tick cfg = some { unit with c := r - 1, latch := none } := by
  simp [TimerUnit.tick, tickDown, latch]

variable (idle : unit.latch = none)
include idle

theorem tick_of_stopped (stopped : unit.stopped = true) : unit.tick cfg = none := by
  simp [TimerUnit.tick, idle, stopped]

theorem tick_of_live (live : unit.stopped = false) : unit.tick cfg = some
    (if cfg.timerTerminal ≤ unit.c then { unit with stopped := true }
    else if cfg.tickAtomic then { unit with c := unit.c - 1 } else { unit with latch := some unit.c }) := by
  simp only [TimerUnit.tick, tickDown, idle, live, Bool.false_eq_true, if_false]
  split
  · rfl
  · split <;> rfl

end Tick

/-! ### A timer set and a tick that overlap (R235) -/

/-- Where the Engine stands in a timer set of value `b`. -/
inductive SetPhase where
  | before
  | between
  | done

/-- A point of a race between a timer set of the unit `u` and a tick: the turns still decided, how far the
Engine is, and the unit's counter and latch. Everything a step of the race reads is as in `s`. -/
structure RaceAt (u : TimerId) (b : Byte) (s : State) (turns : List Agent) (phase : SetPhase) (c : Nat)
    (latch : Option Nat) (t : State) : Prop where
  turns : t.env.turns = turns ++ s.env.turns
  running : t.status = .running
  cfg : t.cfg = s.cfg
  unit : t.timer u = ⟨c, false, latch⟩
  engine : match phase with
    | .before => t.setInFlight = none ∧ t.pc = s.pc ∧ t.mem = s.mem ∧ t.v = s.v
    | .between => t.setInFlight = some (u, b) ∧ t.pc = s.pc + 2
    | .done => t.setInFlight = none ∧ t.pc = s.pc + 2

section Race

variable {u : TimerId} {b : Byte} {s t : State} {turns : List Agent} {phase : SetPhase} {c r : Nat}
  {latch : Option Nat}

theorem RaceAt.turn {a : Agent} (at_ : RaceAt u b s (a :: turns) phase c latch t) : t.turn = a := by
  simp [State.turn, at_.turns]

theorem RaceAt.rest {a : Agent} (at_ : RaceAt u b s (a :: turns) phase c latch t) :
    t.afterTurn.env.turns = turns ++ s.env.turns := by
  simp [at_.turns]

/-- A tick moves the unit and nothing else of the race. -/
theorem RaceAt.tick {c' : Nat} {latch' : Option Nat}
    (at_ : RaceAt u b s (.timer u :: turns) phase c latch t)
    (moved : TimerUnit.tick ⟨c, false, latch⟩ s.cfg = some ⟨c', false, latch'⟩) :
    ∃ t', step t = .next t' ∧ RaceAt u b s turns phase c' latch' t' := by
  rw [← at_.unit, ← at_.cfg] at moved
  refine ⟨_, step_of_tick at_.turn moved, ?_, ?_, ?_, ?_, ?_⟩
  · rw [State.setTimer_env]; exact at_.rest
  · simpa using at_.running
  · simpa using at_.cfg
  · simp
  · have engine := at_.engine
    cases phase <;> simpa using engine

theorem RaceAt.write (at_ : RaceAt u b s (.timer u :: turns) phase c (some r) t) :
    ∃ t', step t = .next t' ∧ RaceAt u b s turns phase (r - 1) none t' :=
  at_.tick (tick_of_latch rfl)

theorem RaceAt.read (split : s.cfg.tickAtomic = false) (below : c < s.cfg.timerTerminal)
    (at_ : RaceAt u b s (.timer u :: turns) phase c none t) :
    ∃ t', step t = .next t' ∧ RaceAt u b s turns phase c (some c) t' :=
  at_.tick (by rw [tick_of_live rfl rfl]; simp [split, below.not_ge])

theorem RaceAt.fused (fused : s.cfg.tickAtomic = true) (below : c < s.cfg.timerTerminal)
    (at_ : RaceAt u b s (.timer u :: turns) phase c none t) :
    ∃ t', step t = .next t' ∧ RaceAt u b s turns phase (c - 1) none t' :=
  at_.tick (by rw [tick_of_live rfl rfl]; simp [fused, below.not_ge])

/-- The Engine's first micro-step resets the counter. -/
theorem RaceAt.reset {x : RegIdx} {w : Word} (fetch : s.fetch = some w)
    (decode : decodeWord w = .instr (timerSetInstr u x))
    (at_ : RaceAt u (s.V x) s (.engine :: turns) .before c latch t) :
    ∃ t', step t = .next t' ∧ RaceAt u (s.V x) s turns .between 0 latch t' := by
  obtain ⟨idle, pc, mem, v⟩ := at_.engine
  have fetch' : t.fetch = some w := by rw [← fetch, State.fetch_eq, State.fetch_eq, pc, mem, at_.cfg]
  have next := step_of_instr at_.turn at_.running idle fetch' decode
  rw [exec_timerSetInstr] at next
  refine ⟨_, next, ?_, ?_, ?_, ?_, ?_, ?_⟩
  · rw [State.beginTimerSet_env]; exact at_.rest
  · simpa using at_.running
  · simpa using at_.cfg
  · simp [at_.unit]
  · simp [State.V_congr v]
  · simp [pc]

/-- The Engine's second micro-step adds the value. -/
theorem RaceAt.add (at_ : RaceAt u b s (.engine :: turns) .between c latch t) :
    ∃ t', step t = .next t' ∧ RaceAt u b s turns .done (c + b.toNat) latch t' := by
  obtain ⟨flight, pc⟩ := at_.engine
  refine ⟨_, step_of_flight at_.turn at_.running flight, ?_, ?_, ?_, ?_, ?_, ?_⟩
  · rw [State.endTimerSet_env]; exact at_.rest
  · simpa using at_.running
  · simpa using at_.cfg
  · simp [at_.unit]
  · simp
  · simpa using pc

end Race

/-- The start runs for `k` steps to this point of the race. -/
def RaceReaches (u : TimerId) (b : Byte) (s start : State) (k : Nat) (turns : List Agent) (phase : SetPhase)
    (c : Nat) (latch : Option Nat) : Prop :=
  ∃ t, Reaches start k t ∧ RaceAt u b s turns phase c latch t

section Path

variable {u : TimerId} {b : Byte} {s start : State} {k : Nat} {turns : List Agent} {phase : SetPhase}
  {c r : Nat} {latch : Option Nat}

theorem RaceReaches.step {turns' : List Agent} {phase' : SetPhase} {c' : Nat} {latch' : Option Nat}
    (run : RaceReaches u b s start k turns phase c latch)
    (move : ∀ t, RaceAt u b s turns phase c latch t →
      ∃ t', Machine.step t = .next t' ∧ RaceAt u b s turns' phase' c' latch' t') :
    RaceReaches u b s start (k + 1) turns' phase' c' latch' := by
  obtain ⟨t, reach, at_⟩ := run
  obtain ⟨t', next, at_'⟩ := move t at_
  exact ⟨t', ⟨t, reach, next⟩, at_'⟩

theorem RaceReaches.write (run : RaceReaches u b s start k (.timer u :: turns) phase c (some r)) :
    RaceReaches u b s start (k + 1) turns phase (r - 1) none :=
  run.step fun _ => RaceAt.write

theorem RaceReaches.read (run : RaceReaches u b s start k (.timer u :: turns) phase c none)
    (split : s.cfg.tickAtomic = false) (below : c < s.cfg.timerTerminal) :
    RaceReaches u b s start (k + 1) turns phase c (some c) :=
  run.step fun _ => RaceAt.read split below

theorem RaceReaches.fused (run : RaceReaches u b s start k (.timer u :: turns) phase c none)
    (fused : s.cfg.tickAtomic = true) (below : c < s.cfg.timerTerminal) :
    RaceReaches u b s start (k + 1) turns phase (c - 1) none :=
  run.step fun _ => RaceAt.fused fused below

theorem RaceReaches.reset {x : RegIdx} {w : Word}
    (run : RaceReaches u (s.V x) s start k (.engine :: turns) .before c latch) (fetch : s.fetch = some w)
    (decode : decodeWord w = .instr (timerSetInstr u x)) :
    RaceReaches u (s.V x) s start (k + 1) turns .between 0 latch :=
  run.step fun _ => RaceAt.reset fetch decode

theorem RaceReaches.add (run : RaceReaches u b s start k (.engine :: turns) .between c latch) :
    RaceReaches u b s start (k + 1) turns .done (c + b.toNat) latch :=
  run.step fun _ => RaceAt.add

theorem raceReaches_start (running : s.status = .running) (idle : s.setInFlight = none)
    (live : (s.timer u).stopped = false) (quiet : (s.timer u).latch = none) (turns : List Agent) :
    RaceReaches u b s (s.withTurns turns) 0 turns .before (s.timer u).c none := by
  refine ⟨_, rfl, rfl, running, rfl, ?_, idle, rfl, rfl, rfl⟩
  rw [← live, ← quiet]
  cases u <;> rfl

/-- The end of a race, as the obligations state it. -/
theorem RaceReaches.finish (run : RaceReaches u b s start k [] .done c none) {n : Nat} (value : c = n) :
    ∃ t, Reaches start k t ∧ (t.timer u).c = n ∧ (t.timer u).latch = none ∧ t.setInFlight = none ∧
      t.pc = s.pc + 2 := by
  obtain ⟨t, reach, at_⟩ := run
  exact ⟨t, reach, by rw [at_.unit, value], by rw [at_.unit], at_.engine.1, at_.engine.2⟩

end Path

/-- A byte added to a counter just reset is below every terminal value the parameters allow (R10). -/
theorem toNat_lt_terminal {cfg : Config} (fits : cfg.wf = true) (b : Byte) : 0 + b.toNat < cfg.timerTerminal := by
  have := b.isLt
  simp [Config.wf] at fits
  omega

/-! ### Ticks without a set (R233, R236) -/

section CompleteTick

variable {s t : State} {u : TimerId} {rest : List Agent} {c : Nat}

/-- One complete tick of a live, idle unit below the terminal value, on its next two turns. -/
theorem reaches_completeTick (turns : t.env.turns = .timer u :: .timer u :: rest)
    (unit : t.timer u = ⟨c, false, none⟩) (below : c < t.cfg.timerTerminal)
    (split : t.cfg.tickAtomic = false) :
    ∃ t', Reaches t 2 t' ∧ t'.env.turns = rest ∧ t'.timer u = ⟨c - 1, false, none⟩ ∧
      t'.setInFlight = t.setInFlight ∧ SameButTimer u t t' := by
  have reads : (t.timer u).tick t.cfg = some ⟨c, false, some c⟩ := by
    rw [unit, tick_of_live rfl rfl]
    simp [split, below.not_ge]
  have first := step_of_tick (s := t) (by simp [State.turn, turns]) reads
  have second := step_of_tick (s := t.afterTurn.setTimer u ⟨c, false, some c⟩) (u := u)
    (unit := ⟨c - 1, false, none⟩) (by simp [State.turn, turns])
    (by rw [State.setTimer_timer, if_pos rfl]; exact tick_of_latch rfl)
  refine ⟨_, ⟨_, ⟨_, rfl, first⟩, second⟩, ?_, ?_, ?_, (tick_sameButTimer u _ t).trans (tick_sameButTimer u _ _)⟩
  · simp [turns]
  · simp
  · simp

/-- `k` complete ticks, by induction on `k`: each starts below the terminal value, since a tick raises no
counter. -/
theorem reaches_completeTicks (k : Nat) (turns : t.env.turns = List.replicate (2 * k) (.timer u) ++ rest)
    (unit : t.timer u = ⟨c, false, none⟩) (below : c < t.cfg.timerTerminal)
    (split : t.cfg.tickAtomic = false) :
    ∃ t', Reaches t (2 * k) t' ∧ t'.timer u = ⟨c - k, false, none⟩ ∧ t'.setInFlight = t.setInFlight ∧
      SameButTimer u t t' := by
  induction k generalizing t c with
  | zero => exact ⟨t, rfl, unit, rfl, fun _ _ => rfl, rfl, rfl, rfl, rfl, rfl, ⟨rfl, rfl⟩, rfl, rfl, rfl, rfl, rfl, rfl⟩
  | succ k ih =>
    obtain ⟨t₁, run, turns₁, unit₁, flight₁, same₁⟩ := reaches_completeTick turns unit below split
    have cfg₁ : t₁.cfg = t.cfg := by obtain ⟨-, -, -, -, -, -, -, -, cfg, -⟩ := same₁; exact cfg
    obtain ⟨t₂, run', unit₂, flight₂, same₂⟩ := ih turns₁ unit₁ (by rw [cfg₁]; omega) (cfg₁ ▸ split)
    refine ⟨t₂, ?_, ?_, flight₂.trans flight₁, same₁.trans same₂⟩
    · rw [show 2 * (k + 1) = 2 + 2 * k by omega]
      exact reaches_trans run run'
    · rw [unit₂, show c - 1 - k = c - (k + 1) by omega]

end CompleteTick

/-- A tick never raises the counter of its unit, nor latches more than it, when it read no more. -/
theorem tick_settled {unit next : TimerUnit} {cfg : Config} (settled : ∀ n, unit.latch = some n → n ≤ unit.c)
    (moved : unit.tick cfg = some next) : next.c ≤ unit.c ∧ ∀ n, next.latch = some n → n ≤ next.c := by
  obtain ⟨r, latch, rfl⟩ | ⟨idle, live, ⟨-, rfl⟩ | ⟨-, ⟨-, rfl⟩ | ⟨split, rfl⟩⟩⟩ := TimerUnit.tick_cases moved
  · have := settled r latch
    exact ⟨by dsimp only; omega, by simp⟩
  · exact ⟨le_rfl, settled⟩
  · exact ⟨Nat.sub_le _ _, by simp [idle]⟩
  · exact ⟨le_rfl, by simp⟩

/-- A unit that a step leaves as it was. -/
theorem settled_of_sameTimer {u : TimerId} {s t : State} (settled : Settled u s)
    (same : t.timer u = s.timer u) : (t.timer u).c ≤ (s.timer u).c ∧ Settled u t := by
  rw [Settled, same]
  exact ⟨le_rfl, settled⟩

/-! ### The obligations -/

/-- Settles O10: a step exists for the enabled agents, and each stopped agent's turn has its equation. -/
theorem theAgentOnTurnMovesExactlyWhenEnabled : Obligations.TheAgentOnTurnMovesExactlyWhenEnabled :=
  fun s => ⟨exists_step_iff_enabled s, step_ne_refused s, step_of_halted, fun _ _ _ => step_of_faulted⟩

/-- Settles O11: a stopped machine only ticks, by induction over the run. -/
theorem stoppedEngineKeepsEverythingButTimers : Obligations.StoppedEngineKeepsEverythingButTimers :=
  fun _ _ _ => reaches_onlyTicks_of_stopped

/-- Settles O39: both instructions are `beginTimerSet` of their unit. -/
theorem timerSetBeginsWithTheReset : Obligations.TimerSetBeginsWithTheReset := by
  intro u x s
  refine ⟨_, exec_timerSetInstr u x s, ?_, ?_, ?_, rfl, beginTimerSet_sameButTimer u _ s,
    State.beginTimerSet_env s u _⟩ <;> simp

/-- Settles O40: with a value in flight, the Engine's step is `endTimerSet`. -/
theorem timerSetEndsWithTheAdd : Obligations.TimerSetEndsWithTheAdd := by
  intro u b s turn running flight
  refine ⟨_, step_of_flight turn running flight, ?_, ?_, ?_, rfl, endTimerSet_sameButTimer u b s⟩ <;> simp

/-- Settles O41: the three situations of a unit's turn. -/
theorem ticksReadThenWrite : Obligations.TicksReadThenWrite := by
  intro u s turn
  have holds (n : Nat) : max n 1 - 1 = n - 1 := by omega
  refine ⟨fun r latch => ?_, fun idle live => ?_, fun idle stopped => ?_⟩
  · refine ⟨_, step_of_tick turn (tick_of_latch latch), ?_, tick_sameButTimer u _ s, ?_⟩
    · rw [State.setTimer_timer, if_pos rfl, holds]
    · simp
  · refine ⟨_, step_of_tick turn (tick_of_live idle live), tick_sameButTimer u _ s, ?_, ?_⟩
    · simp
    · rw [State.setTimer_timer, if_pos rfl, holds]
  · exact step_of_noTick turn (tick_of_stopped idle stopped)

/-- Settles O42: each order is a path of four moves, the read and the write of the unit, the reset and the
add of the Engine. -/
theorem timerSetRacesWithOneTick : Obligations.TimerSetRacesWithOneTick := by
  intro u x w s running idle fetch decode live quiet split fits below o mem
  have start := raceReaches_start (b := s.V x) running idle live quiet
  have zero : 0 < s.cfg.timerTerminal := Nat.zero_lt_of_lt below
  have byte : 0 + (s.V x).toNat < s.cfg.timerTerminal := toNat_lt_terminal fits (s.V x)
  simp only [List.mem_cons, List.not_mem_nil, or_false] at mem
  obtain rfl | rfl | rfl | rfl | rfl | rfl := mem
  · exact ((((start _).read split below).write.reset fetch decode).add).finish (by omega)
  · exact ((((start _).read split below).reset fetch decode).write.add).finish rfl
  · exact ((((start _).read split below).reset fetch decode).add.write).finish rfl
  · exact ((((start _).reset fetch decode).read split zero).write.add).finish (by omega)
  · exact ((((start _).reset fetch decode).read split zero).add.write).finish rfl
  · exact ((((start _).reset fetch decode).add.read split byte).write).finish (by omega)

/-- Settles O43: each order is a path of three moves. -/
theorem timerSetRacesWithOneFusedTick : Obligations.TimerSetRacesWithOneFusedTick := by
  intro u x w s running idle fetch decode live quiet fused fits below o mem
  have start := raceReaches_start (b := s.V x) running idle live quiet
  have zero : 0 < s.cfg.timerTerminal := Nat.zero_lt_of_lt below
  have byte : 0 + (s.V x).toNat < s.cfg.timerTerminal := toNat_lt_terminal fits (s.V x)
  have finish {c n : Nat} (value : c = n)
      (run : RaceReaches u (s.V x) s (s.withTurns o.1) 3 [] .done c none) :
      ∃ t, Reaches (s.withTurns o.1) 3 t ∧ (t.timer u).c = n ∧ t.setInFlight = none ∧ t.pc = s.pc + 2 := by
    obtain ⟨t, reach, counter, -, rest⟩ := run.finish value
    exact ⟨t, reach, counter, rest⟩
  simp only [List.mem_cons, List.not_mem_nil, or_false] at mem
  obtain rfl | rfl | rfl := mem
  · exact finish (by omega) (((start _).fused fused below).reset fetch decode).add
  · exact finish (by omega) (((start _).reset fetch decode).fused fused zero).add
  · exact finish (by omega) (((start _).reset fetch decode).add.fused fused byte)

/-- Settles O44: the run of `reaches_completeTicks` from the state with the turns decided. -/
theorem completeTicksCountDown : Obligations.CompleteTicksCountDown := by
  intro k u s live quiet below split
  obtain ⟨t, reach, unit, flight, same⟩ := reaches_completeTicks (t := s.withTurns _) (u := u)
    (c := (s.timer u).c) k rfl (by rw [← live, ← quiet]; cases u <;> rfl) below split
  exact ⟨t, reach, by rw [unit], by rw [unit], by rw [unit], flight, same⟩

/-- Settles O45: only the two halves of a set of this unit could raise its counter, and a tick that read no
more than it writes less. -/
theorem counterNeverRisesWithoutASet : Obligations.CounterNeverRisesWithoutASet := by
  intro u s t settled next noSet noSet'
  cases step_cases next with
  | add u' b turn running flight result =>
    have other : u ≠ u' := fun same => noSet b (same ▸ flight)
    exact settled_of_sameTimer settled (by simp [result, other])
  | badFetch turn running idle fetch result => exact settled_of_sameTimer settled (result ▸ rfl)
  | badWord w why turn running idle fetch decode result => exact settled_of_sameTimer settled (result ▸ rfl)
  | run w i turn running idle fetch decode result =>
    obtain ⟨⟨dt, st⟩, -⟩ | ⟨u', x, -, began⟩ := exec_timers result
    · cases u with
      | dt => exact settled_of_sameTimer settled dt
      | st => exact settled_of_sameTimer settled st
    · have other : u ≠ u' := fun same => noSet' _ (by rw [began, same]; rfl)
      exact settled_of_sameTimer settled (by simp [began, other])
  | tick u' unit turn moved result =>
    by_cases own : u = u'
    · subst own
      rw [Settled, result, State.setTimer_timer, if_pos rfl]
      exact tick_settled settled moved
    · exact settled_of_sameTimer settled (by simp [result, own])

end Sys2Proof.Machine

/-!
PROOFS. Control flow, registers, random bytes, keys and the delay timer: one equation per instruction, then its
effect and frame (40_control_flow.md, 41_register_alu.md, 43_keys_timers.md, 44_index_memory.md section 2).
-/

namespace Sys2Proof.Machine

/-! ### Fetch (R52, R53) -/

theorem toNat_wordOfBytes (hi lo : Byte) : (wordOfBytes hi lo).toNat = 256 * hi.toNat + lo.toNat := by
  rw [wordOfBytes, BitVec.toNat_append, ← Nat.shiftLeft_add_eq_or_of_lt lo.isLt, Nat.shiftLeft_eq,
    Nat.mul_comm]

/-! ### The meanings, one equation per instruction -/

section Meanings

variable (x y : RegIdx) (nn : Byte) (nnn : Nat) (s : State)

theorem exec_ret_pop {older : List Nat} {a : Nat} (entry : s.stack = older ++ [a]) :
    exec .ret s = .next (s.dropTop.goto a) := by
  simp [exec, execRet, State.top, entry]

theorem exec_ret_halt (empty : s.stack = []) : exec .ret s = .next s.halt := by
  simp [exec, execRet, State.top, empty]

theorem exec_call_push (room : s.cfg.maxCallDepth ≠ some s.stack.length) :
    exec (.call nnn) s = .next ((s.push s.pc).goto nnn) :=
  if_neg (by simpa [State.stackFull] using room)

theorem exec_call_fault (full : s.cfg.maxCallDepth = some s.stack.length) :
    exec (.call nnn) s = .next (s.raise .callDepthExceeded (s.pc - 2) (s.pc - 2)) :=
  if_pos (by simpa [State.stackFull] using full)

theorem exec_jpV0 : exec (.jpV0 nnn) s = .next (s.goto (nnn + (s.V 0).toNat)) := rfl

theorem exec_seReg :
    exec (.seReg x y) s = .next (s.goto (if s.V x = s.V y then s.pc + 2 else s.pc)) := by
  simp [exec, execSeReg]

theorem exec_sneReg :
    exec (.sneReg x y) s = .next (s.goto (if s.V x = s.V y then s.pc else s.pc + 2)) := by
  simp [exec, execSneReg, bne]

theorem exec_ldReg : exec (.ldReg x y) s = .next (s.setV x (s.V y)) := rfl

theorem exec_orReg : exec (.orReg x y) s = .next (s.setV x (s.V x ||| s.V y)) := rfl

theorem exec_andReg : exec (.andReg x y) s = .next (s.setV x (s.V x &&& s.V y)) := rfl

theorem exec_xorReg : exec (.xorReg x y) s = .next (s.setV x (s.V x ^^^ s.V y)) := rfl

theorem exec_rnd : exec (.rnd x nn) s = .next (s.afterRandom.setV x (s.randomAnswer &&& nn)) := rfl

theorem exec_addI : exec (.addI x) s = .next ((s.setI ((s.i.toNat + (s.V x).toNat) % 0x1000)).setV vF
    (flagByte (indexOverflow s.i (s.V x)))) := rfl

theorem exec_ldF : exec (.ldF x) s = .next (s.setI (glyphAddr (s.V x))) := rfl

theorem exec_ldVxK_none (noKey : s.firstAnswer = none) :
    exec (.ldVxK x) s = .next s.afterFirst.rewind := by
  simp [exec, execLdVxK, State.takeKey, noKey]

theorem exec_ldVxK_some {k : Key} (key : s.firstAnswer = some k) :
    exec (.ldVxK x) s = .next (s.afterFirst.setV x (BitVec.ofNat 8 k.val)) := by
  simp [exec, execLdVxK, State.takeKey, key]

theorem exec_ldVxDT_small (small : s.dt.c ≤ 255) :
    exec (.ldVxDT x) s = .next (s.setV x (BitVec.ofNat 8 s.dt.c)) :=
  if_pos small

theorem exec_ldVxDT_fault (large : 255 < s.dt.c) :
    exec (.ldVxDT x) s = .next (s.raise .timerValueOutOfRange s.dt.c (s.pc - 2)) :=
  if_neg large.not_ge

variable {x s}

theorem exec_skp (key : (s.V x).toNat < 16) : exec (.skp x) s = .next (s.afterHeld.goto
    (if s.heldAnswer ⟨(s.V x).toNat, key⟩ = true then s.pc + 2 else s.pc)) :=
  dif_pos key

theorem exec_sknp (key : (s.V x).toNat < 16) : exec (.sknp x) s = .next (s.afterHeld.goto
    (if s.heldAnswer ⟨(s.V x).toNat, key⟩ = true then s.pc else s.pc + 2)) := by
  cases answer : s.heldAnswer ⟨(s.V x).toNat, key⟩ <;> simp [exec, execSknp, key, answer]

theorem exec_skp_fault (noKey : 16 ≤ (s.V x).toNat) :
    exec (.skp x) s = .next (s.raise .keyOutOfRange (s.V x).toNat (s.pc - 2)) :=
  dif_neg noKey.not_gt

theorem exec_sknp_fault (noKey : 16 ≤ (s.V x).toNat) :
    exec (.sknp x) s = .next (s.raise .keyOutOfRange (s.V x).toNat (s.pc - 2)) :=
  dif_neg noKey.not_gt

end Meanings

/-! ### Frames -/

/-- A fault raised at once leaves everything but the status as it was (R221). -/
theorem raise_onlyStatus (s : State) (why : FaultReason) (info a : Nat) :
    FaultFrame [] 0 0 s (s.raise why info a) :=
  ⟨fun _ _ => rfl, rfl, rfl, rfl, fun _ _ => rfl, ⟨rfl, rfl⟩, ⟨rfl, rfl⟩, rfl, rfl, rfl⟩

theorem halt_onlyStatus (s : State) : FaultFrame [] 0 0 s s.halt :=
  ⟨fun _ _ => rfl, rfl, rfl, rfl, fun _ _ => rfl, ⟨rfl, rfl⟩, ⟨rfl, rfl⟩, rfl, rfl, rfl⟩

theorem push_goto_onlyPcAndStack (s : State) (a n : Nat) : OnlyPcAndStack s ((s.push a).goto n) :=
  ⟨fun _ _ => rfl, rfl, fun _ => rfl, ⟨rfl, rfl⟩, ⟨rfl, rfl⟩, ⟨rfl, rfl⟩, rfl, rfl⟩

theorem dropTop_goto_onlyPcAndStack (s : State) (n : Nat) : OnlyPcAndStack s (s.dropTop.goto n) :=
  ⟨fun _ _ => rfl, rfl, fun _ => rfl, ⟨rfl, rfl⟩, ⟨rfl, rfl⟩, ⟨rfl, rfl⟩, rfl, rfl⟩

theorem setI_setV_onlyIndexAndRegs (s : State) (n : Nat) (b : Byte) :
    OnlyIndexAndRegs [vF] s ((s.setI n).setV vF b) :=
  ⟨(setV_onlyRegs (s.setI n) vF b).1, rfl, rfl, fun _ => rfl, ⟨rfl, rfl⟩, ⟨rfl, rfl⟩, ⟨rfl, rfl⟩, rfl, rfl⟩

/-! ### Encodings of the register skips (R73; D11) -/

theorem decodeWord_seReg (x y n : BitVec 4) : decodeWord (0b0101#4 ++ x ++ y ++ n) =
    if n = 0 then .instr (.seReg x.toFin y.toFin) else .illegal .family5 := by
  simp [← encodeXYN_eq, decodeWord]

theorem decodeWord_sneReg (x y n : BitVec 4) : decodeWord (0b1001#4 ++ x ++ y ++ n) =
    if n = 0 then .instr (.sneReg x.toFin y.toFin) else .illegal .family9 := by
  simp [← encodeXYN_eq, decodeWord]

/-! ### The obligations -/

/-- Settles O6: both bytes are read exactly when the second lies in memory. -/
theorem fetchReadsTheBigEndianWord : Obligations.FetchReadsTheBigEndianWord := by
  intro s
  rw [State.fetch_eq]
  exact ⟨fun inside => ⟨_, if_pos inside, toNat_wordOfBytes _ _⟩, fun outside => if_neg outside.not_gt⟩

/-- Settles O12: the newest entry, or none, decides between the two equations of 00EE. -/
theorem returnPopsOrHalts : Obligations.ReturnPopsOrHalts := by
  refine ⟨fun s a older entry => ?_, fun s empty => ?_⟩
  · exact ⟨_, exec_ret_pop s entry, rfl, by simp [entry], dropTop_goto_onlyPcAndStack s a⟩
  · exact ⟨_, exec_ret_halt s empty, rfl, rfl, empty, halt_onlyStatus s⟩

/-- Settles O14: the depth limit decides between the two equations of 2NNN. -/
theorem callPushesTheNextAddress : Obligations.CallPushesTheNextAddress := by
  refine fun nnn s => ⟨fun room => ?_, fun full => ?_⟩
  · exact ⟨_, exec_call_push nnn s room, rfl, rfl, push_goto_onlyPcAndStack s _ _⟩
  · exact ⟨_, exec_call_fault nnn s full, rfl, raise_onlyStatus s _ _ _⟩

/-- Settles O15: the call's frame is what 00EE pops. -/
theorem returnGoesBackToTheCaller : Obligations.ReturnGoesBackToTheCaller := by
  refine fun nnn s room => ⟨_, exec_call_push nnn s room, fun u frame => ?_⟩
  have entry : u.stack = s.stack ++ [s.pc] := frame
  exact ⟨_, exec_ret_pop u entry, rfl, by simp [entry], rfl⟩

/-- Settles O16: the jump is one `goto`. -/
theorem offsetJumpAddsV0 : Obligations.OffsetJumpAddsV0 :=
  fun nnn s => ⟨_, exec_jpV0 nnn s, rfl, goto_onlyPc s _⟩

/-- Settles O18: each skip is one `goto`, and the low nibble decides whether the word is legal. -/
theorem registerSkips : Obligations.RegisterSkips := by
  refine ⟨fun x y => ⟨decodeWord_seReg x y 0, decodeWord_sneReg x y 0, fun n nonzero => ⟨?_, ?_⟩⟩,
    fun x y s => ⟨⟨_, exec_seReg x y s, rfl, goto_onlyPc s _⟩, ⟨_, exec_sneReg x y s, rfl, goto_onlyPc s _⟩⟩⟩
  · rw [decodeWord_seReg, if_neg nonzero]
  · rw [decodeWord_sneReg, if_neg nonzero]

/-- Settles O20: each meaning is one write of VX. -/
theorem copyAndLogic : Obligations.CopyAndLogic := by
  refine fun x y s => ⟨?_, ?_, ?_, ?_⟩
  · exact ⟨_, exec_ldReg x y s, by simp, setV_onlyRegs s x _⟩
  · exact ⟨_, exec_orReg x y s, setV_onlyRegs s x _, fun j => by simp⟩
  · exact ⟨_, exec_andReg x y s, setV_onlyRegs s x _, fun j => by simp⟩
  · exact ⟨_, exec_xorReg x y s, setV_onlyRegs s x _, fun j => by simp⟩

/-- Settles O24: one query, then one write of VX. -/
theorem randomIsMasked : Obligations.RandomIsMasked := by
  refine fun x nn s => ⟨fun b rest decided => by simp [State.randomAnswer, decided],
    _, exec_rnd x nn s, fun j => by simp, (setV_onlyRegs s.afterRandom x _).1, ?_⟩
  exact ⟨rfl, rfl, rfl, fun _ => rfl, ⟨rfl, rfl⟩, ⟨rfl, rfl⟩, ⟨rfl, rfl⟩, rfl, rfl⟩

/-- Settles O35: one query, then one `goto`. -/
theorem keySkips : Obligations.KeySkips := by
  refine fun x s key => ⟨fun b rest decided => by simp [State.heldAnswer, decided],
    _, _, exec_skp key, exec_sknp key, rfl, rfl, ?_⟩
  rintro q (rfl | rfl)
  all_goals exact ⟨fun _ _ => rfl, rfl, rfl, fun _ => rfl, ⟨rfl, rfl⟩, ⟨rfl, rfl⟩, ⟨rfl, rfl⟩, rfl, rfl⟩

/-- Settles O36: both instructions fault before the query. -/
theorem keyNumberAbove15Faults : Obligations.KeyNumberAbove15Faults := by
  rintro x s i noKey (rfl | rfl)
  · exact ⟨_, exec_skp_fault noKey, rfl, raise_onlyStatus s _ _ _⟩
  · exact ⟨_, exec_sknp_fault noKey, rfl, raise_onlyStatus s _ _ _⟩

/-- Settles O37: the host's answer decides between the two equations of FX0A. -/
theorem keyWaitRewindsOrTakesTheKey : Obligations.KeyWaitRewindsOrTakesTheKey := by
  refine fun x s => ⟨fun k rest decided => by simp [State.firstAnswer, decided], ?_⟩
  cases answer : s.firstAnswer with
  | none =>
    refine ⟨_, exec_ldVxK_none x s answer, fun _ => ⟨rfl, fun _ _ => rfl⟩, nofun, ?_⟩
    exact ⟨rfl, rfl, fun _ => rfl, ⟨rfl, rfl⟩, ⟨rfl, rfl⟩, ⟨rfl, rfl⟩, rfl, rfl⟩
  | some k =>
    refine ⟨_, exec_ldVxK_some x s answer, nofun, ?_, ?_⟩
    · rintro _ ⟨rfl⟩
      refine ⟨?_, rfl, (setV_onlyRegs s.afterFirst x _).1⟩
      rw [State.setV_V, if_pos rfl, BitVec.toNat_ofNat]
      have := k.isLt
      omega
    · exact ⟨rfl, rfl, fun _ => rfl, ⟨rfl, rfl⟩, ⟨rfl, rfl⟩, ⟨rfl, rfl⟩, rfl, rfl⟩

/-- Settles O38: the step advances pc and takes it back. -/
theorem keyWaitRefetchesTheSameWord : Obligations.KeyWaitRefetchesTheSameWord := by
  intro x s w turn running idle fetch decode noKey
  have next := step_of_instr turn running idle fetch decode
  rw [exec_ldVxK_none x (s.afterTurn.goto (s.pc + 2)) noKey] at next
  exact ⟨_, next, rfl, fetch, running, idle, fun _ _ => rfl, rfl, rfl⟩

/-- Settles O46: the counter decides between the two equations of FX07. -/
theorem delayTimerReads : Obligations.DelayTimerReads := by
  refine fun x s => ⟨fun small => ?_, fun large => ?_⟩
  · refine ⟨_, exec_ldVxDT_small x s small, ?_, setV_onlyRegs s x _⟩
    rw [State.setV_V, if_pos rfl, BitVec.toNat_ofNat]
    omega
  · exact ⟨_, exec_ldVxDT_fault x s large, rfl, raise_onlyStatus s _ _ _⟩

/-- Settles O48: the sum is masked into I, the flag comes from the exact sum. -/
theorem addToIndexSetsOverflow : Obligations.AddToIndexSetsOverflow := by
  refine fun x s => ⟨_, exec_addI x s, ?_, ?_, setI_setV_onlyIndexAndRegs s _ _⟩
  · exact setI_i_toNat s (by omega)
  · rw [State.setV_V, if_pos rfl]
    exact toNat_flagByte_decide _

/-- Settles O49: a glyph's address fits I. -/
theorem fontPointer : Obligations.FontPointer := by
  refine fun x s => ⟨_, exec_ldF x s, setI_i_toNat s ?_, setI_onlyIndexAndRegs s _⟩
  have := (s.V x).isLt
  unfold glyphAddr fontBase
  omega

end Sys2Proof.Machine

/-!
PROOFS. The two display instructions (42_display.md): a sprite's plots gathered into one mask over the grid, and
what DXYN does in terms of that mask.
-/

namespace Sys2Proof.Machine

/-! ### Plotting as XOR with a mask (R161 to R163) -/

/-- The pixels of the grid that a part of a sprite flips. -/
abbrev Mask := Fin 32 → Fin 64 → Bool

/-- From `p` to `q` every pixel of the mask was flipped once, and the collision flag was set if one of them
was lit. -/
structure Plots (mask : Mask) (p q : Grid × Bool) : Prop where
  pixel : ∀ r c, q.1.pixel r c = (p.1.pixel r c ^^ mask r c)
  collision : q.2 = true ↔ p.2 = true ∨ ∃ r c, mask r c = true ∧ p.1.pixel r c = true

/-- Nothing plotted. -/
theorem plots_nothing (p : Grid × Bool) : Plots (fun _ _ => false) p p :=
  ⟨fun r c => by simp, by simp⟩

/-- One plot after another, at other pixels. -/
theorem Plots.trans {mask mask' : Mask} {p q w : Grid × Bool} (h : Plots mask p q) (h' : Plots mask' q w)
    (disjoint : ∀ r c, mask r c = true → mask' r c = false) :
    Plots (fun r c => mask r c || mask' r c) p w := by
  refine ⟨fun r c => ?_, ?_⟩
  · rw [h'.pixel, h.pixel]
    cases here : mask r c with
    | false => simp
    | true => simp [disjoint r c here]
  · rw [h'.collision, h.collision, or_assoc, ← exists_or]
    refine or_congr_right (exists_congr fun r => ?_)
    rw [← exists_or]
    refine exists_congr fun c => ?_
    rw [h.pixel]
    cases here : mask r c with
    | false => simp
    | true => simp [disjoint r c here]

/-- The same pixels, described otherwise. -/
theorem Plots.congr {mask mask' : Mask} {p q : Grid × Bool} (h : Plots mask p q)
    (same : ∀ r c, mask r c = mask' r c) : Plots mask' p q := by
  obtain rfl : mask = mask' := funext fun r => funext fun c => same r c
  exact h

/-- One plot flips its pixel, if it lies on the grid. -/
theorem plotOnto_plots (p : Grid × Bool) (r c : Nat) (bit : Bool) :
    Plots (fun r' c' => decide (r'.val = r ∧ c'.val = c) && bit) p (plotOnto p r c bit) := by
  refine ⟨fun r' c' => ?_, ?_⟩
  · rw [plotOnto, plotClipped_pixel]
    by_cases here : r'.val = r ∧ c'.val = c <;> simp [here]
  · rw [plotOnto, Bool.or_eq_true, plotClipped_report]
    refine or_congr_right ⟨?_, ?_⟩
    · rintro ⟨on, hr, hc, lit⟩
      exact ⟨⟨r, hr⟩, ⟨c, hc⟩, by simp [on], lit⟩
    · rintro ⟨r', c', here, lit⟩
      obtain ⟨⟨rfl, rfl⟩, on⟩ := by simpa using here
      exact ⟨on, r'.isLt, c'.isLt, lit⟩

/-- The pixels that the columns of a list flip in one row. -/
def rowMask (r ox : Nat) (row : Byte) (columns : List Nat) : Mask := fun r' c' =>
  decide (r'.val = r ∧ ox ≤ c'.val ∧ c'.val - ox ∈ columns) && spriteBit row (c'.val - ox)

/-- A row plotted column by column, no column twice. -/
theorem plotColumns_plots {columns : List Nat} (nodup : columns.Nodup) (p : Grid × Bool) (r ox : Nat)
    (row : Byte) : Plots (rowMask r ox row columns) p
      (columns.foldl (fun q j => plotOnto q r (ox + j) (spriteBit row j)) p) := by
  induction columns generalizing p with
  | nil => exact (plots_nothing p).congr fun r c => by simp [rowMask]
  | cons j columns ih =>
    obtain ⟨new, nodup⟩ := List.nodup_cons.mp nodup
    refine ((plotOnto_plots p r (ox + j) (spriteBit row j)).trans (ih nodup _) fun r' c' here => ?_).congr
      fun r' c' => ?_
    · obtain ⟨⟨-, col⟩, -⟩ : (_ ∧ c'.val = ox + j) ∧ _ := by simpa using here
      simp [rowMask, col, new]
    · by_cases col : c'.val = ox + j
      · simp [rowMask, col, new]
      · have other : ox ≤ c'.val → c'.val - ox ≠ j := by omega
        by_cases right : ox ≤ c'.val
        · simp [rowMask, col, right, other right]
        · simp [rowMask, col, right]

/-- The pixels of a sprite whose rows are these bytes, with its origin at row `oy` and column `ox`: bit 7 of a
byte is leftmost (D24). -/
def spriteMask (oy ox : Nat) (rows : List Byte) : Mask := fun r c =>
  decide (oy ≤ r.val ∧ r.val < oy + rows.length ∧ ox ≤ c.val ∧ c.val < ox + 8) &&
    (rows.getD (r.val - oy) 0#8).getLsbD (7 - (c.val - ox))

theorem mem_spriteColumns {j : Nat} : j ∈ spriteColumns ↔ j < 8 := by
  simp [spriteColumns]
  omega

/-- A sprite is its first row and, one row further down, the rest. -/
theorem spriteMask_cons (oy ox : Nat) (row : Byte) (rows : List Byte) (r : Fin 32) (c : Fin 64) :
    spriteMask oy ox (row :: rows) r c =
      (rowMask oy ox row spriteColumns r c || spriteMask (oy + 1) ox rows r c) := by
  have columns : ox ≤ c.val ∧ c.val < ox + 8 ↔ ox ≤ c.val ∧ c.val - ox < 8 := by omega
  simp only [spriteMask, rowMask, mem_spriteColumns, spriteBit, columns, List.length_cons]
  obtain above | first | below := lt_trichotomy r.val oy
  · simp [above.not_ge, above.ne, show ¬ oy + 1 ≤ r.val by omega]
  · simp [first]
  · have next : r.val - oy = r.val - (oy + 1) + 1 := by omega
    have count : r.val < oy + (rows.length + 1) ↔ r.val < oy + 1 + rows.length := by omega
    simp [below.le, below.ne', next, count, show oy + 1 ≤ r.val by omega]

theorem plotRows_plots (rows : List Byte) (p : Grid × Bool) (oy ox : Nat) :
    Plots (spriteMask oy ox rows) p (plotRows p oy ox rows) := by
  induction rows generalizing p oy with
  | nil => exact (plots_nothing p).congr fun r c => by simp [spriteMask]
  | cons row rows ih =>
    have first : Plots (rowMask oy ox row spriteColumns) p (plotRow p oy ox row) :=
      plotColumns_plots (by decide) p oy ox row
    refine (first.trans (ih _ _) fun r c here => ?_).congr fun r c => (spriteMask_cons oy ox row rows r c).symm
    obtain ⟨⟨rowHere, -⟩, -⟩ : (r.val = oy ∧ _) ∧ _ := by simpa [rowMask] using here
    simp [spriteMask, rowHere]

/-! ### The meanings (R160, R161) -/

theorem exec_cls (s : State) : exec .cls s = .next (s.setDisp Grid.clear) := rfl

section Draw

variable {x y : RegIdx} {n : Nat} {s : State}

/-- The bytes of the sprite, from I. -/
def State.spriteRows (s : State) (n : Nat) : List Byte := (List.range n).map fun k => s.mem.read (s.i.toNat + k)

/-- The mask of the sprite's bytes is its pixels. -/
theorem spriteMask_spriteRows (r : Fin 32) (c : Fin 64) :
    spriteMask (originRow (s.V y)) (originColumn (s.V x)) (s.spriteRows n) r c = s.spritePixel x y n r c := by
  unfold spriteMask State.spritePixel originRow originColumn State.spriteRows
  rw [List.length_map, List.length_range]
  by_cases here : (s.V y).toNat % 32 ≤ r.val ∧ r.val < (s.V y).toNat % 32 + n
  · have row : r.val - (s.V y).toNat % 32 < n := by omega
    simp [List.getD_eq_getElem?_getD, row]
  · have gone : ∀ P : Prop, ¬ ((s.V y).toNat % 32 ≤ r.val ∧ r.val < (s.V y).toNat % 32 + n ∧ P) :=
      fun P ⟨low, high, _⟩ => here ⟨low, high⟩
    simp only [gone, decide_false, Bool.false_and]

theorem exec_drw (inside : n = 0 ∨ s.i.toNat + n ≤ s.cfg.memSize) :
    exec (.drw x y n) s = .next (s.drawRows x y (s.spriteRows n)) := by
  have rows : s.readBytes (s.effectiveAddr 0) n = .ok (s.spriteRows n) :=
    (s.readBytes_eq _ n).trans (if_pos inside)
  simp only [exec, execDrw, rows]

theorem exec_drw_fault (nonzero : n ≠ 0) (past : s.cfg.memSize < s.i.toNat + n) : exec (.drw x y n) s =
    .next (s.raise .memReadOutOfBounds (max s.i.toNat s.cfg.memSize) (s.pc - 2)) := by
  have rows : s.readBytes (s.effectiveAddr 0) n = .error (max s.i.toNat s.cfg.memSize) :=
    (s.readBytes_eq _ n).trans (if_neg (not_or.mpr ⟨nonzero, past.not_ge⟩))
  simp only [exec, execDrw, rows]
  rfl

/-- The plots of a sprite on the buffer, from no collision. -/
theorem drawRows_plots (s : State) (x y : RegIdx) (n : Nat) : Plots (s.spritePixel x y n) (s.disp, false)
    (plotRows (s.disp, false) (originRow (s.V y)) (originColumn (s.V x)) (s.spriteRows n)) :=
  (plotRows_plots _ _ _ _).congr fun _ _ => spriteMask_spriteRows _ _

theorem drawRows_pixel (r : Fin 32) (c : Fin 64) :
    (s.drawRows x y (s.spriteRows n)).disp.pixel r c = (s.disp.pixel r c ^^ s.spritePixel x y n r c) :=
  (drawRows_plots s x y n).pixel r c

/-- VF is the collision (R161). -/
theorem drawRows_vF : (s.drawRows x y (s.spriteRows n)).V vF = flagByte
    (decide (∃ r c, s.spritePixel x y n r c = true ∧ s.disp.pixel r c = true)) := by
  have collision := (drawRows_plots s x y n).collision
  simp only [Bool.false_eq_true, false_or] at collision
  rw [State.drawRows, State.present_V, State.setV_V, if_pos rfl]
  exact congrArg flagByte (Bool.eq_iff_iff.mpr (collision.trans decide_eq_true_iff.symm))

/-- Registers other than VF are those of before. -/
theorem drawRows_V_other {rows : List Byte} {r : RegIdx} (other : r ≠ vF) :
    (s.drawRows x y rows).V r = s.V r := by
  rw [State.drawRows, State.present_V, State.setV_V, if_neg other, State.setDisp_V]

end Draw

/-! ### The obligations -/

/-- Settles O30: the cleared grid has no pixel set. -/
theorem clearUnsetsEveryPixel : Obligations.ClearUnsetsEveryPixel := fun s =>
  ⟨_, exec_cls s, Grid.pixel_clear, rfl, fun _ _ => rfl, rfl, rfl, rfl, fun _ => rfl, ⟨rfl, rfl⟩, ⟨rfl, rfl⟩,
    rfl, rfl⟩

/-- Settles O32: the plots of the rows make up the sprite, each pixel once. -/
theorem drawXorsTheSprite : Obligations.DrawXorsTheSprite := by
  intro x y n s inside
  refine ⟨_, exec_drw inside, drawRows_pixel, ?_, rfl, fun r other => ?_, rfl, rfl, rfl, fun _ => rfl,
    ⟨rfl, rfl⟩, ⟨rfl, rfl⟩, rfl, rfl⟩
  · rw [drawRows_vF, toNat_flagByte_decide]
    simp only [and_comm]
  · exact drawRows_V_other (by simpa using other)

/-- Settles O33: the first address out of bounds is found before anything is plotted. -/
theorem drawOutOfBoundsPlotsNothing : Obligations.DrawOutOfBoundsPlotsNothing :=
  fun _ _ _ s nonzero past => ⟨_, exec_drw_fault nonzero past, rfl, raise_onlyStatus s _ _ _⟩

/-- Settles O34: the second draw finds the same sprite, and on its pixels the buffer inverted. -/
theorem drawingTwiceRestoresTheDisplay : Obligations.DrawingTwiceRestoresTheDisplay := by
  intro x y n s notX notY inside
  let t := s.drawRows x y (s.spriteRows n)
  have sprite : ∀ r c, t.spritePixel x y n r c = s.spritePixel x y n r c := fun r c => by
    unfold State.spritePixel
    rw [drawRows_V_other notX, drawRows_V_other notY]
    rfl
  have restored : (t.drawRows x y (t.spriteRows n)).disp = s.disp := Grid.ext_pixel fun r c => by
    rw [drawRows_pixel, sprite, drawRows_pixel]
    simp
  refine ⟨t, _, exec_drw inside, exec_drw inside, restored, ?_, ?_⟩
  · rw [drawRows_vF]
    have flag : ∀ b, flagByte b = 1 ↔ b = true := by decide
    rw [flag, decide_eq_true_iff]
    refine exists_congr fun r => exists_congr fun c => ?_
    rw [sprite, drawRows_pixel]
    cases s.spritePixel x y n r c <;> simp
  · rw [← restored]
    simp [State.drawRows, t]

end Sys2Proof.Machine

/-!
PROOFS. Stores (44_index_memory.md section 3): what a block leaves in memory, whole or up to the first address out
of bounds, what loads and fetches then read; and the memory at power-on (70_reset_and_hazards.md section 1).
-/

namespace Sys2Proof.Machine

/-! ### A block of bytes stored (R55) -/

section Store

variable {s : State} {a : Nat} {bs : List Byte}

/-- The bytes that lie in memory are written. -/
theorem storeBytes_mem (s : State) (a : Nat) (bs : List Byte) :
    (s.storeBytes a bs).mem = s.mem.writeBytes a (bs.take (s.cfg.memSize - a)) := by
  by_cases fits : bs = [] ∨ a + bs.length ≤ s.cfg.memSize
  · have whole : bs.take (s.cfg.memSize - a) = bs := by
      obtain rfl | fits := fits
      · exact List.take_nil
      · exact List.take_of_length_le (by omega)
    rw [State.storeBytes_ok fits, whole]
  · obtain ⟨nonempty, past⟩ := not_or.mp fits
    rw [State.storeBytes_fault nonempty (not_le.mp past)]
    rfl

variable (canonical : s.mem.wf)
include canonical

/-- A byte of the block whose address lies in memory reads as stored. -/
theorem storeBytes_read {k : Nat} (inBlock : k < bs.length) (inside : a + k < s.cfg.memSize) :
    (s.storeBytes a bs).mem.read (a + k) = bs[k] := by
  rw [storeBytes_mem, Memory.read_writeBytes canonical, if_pos (by rw [List.length_take]; omega),
    Nat.add_sub_cancel_left, List.getD_eq_getElem?_getD, List.getElem?_take_of_lt (by omega),
    List.getElem?_eq_getElem inBlock]
  rfl

/-- A byte below the block, or past what of it lies in memory, reads as before. -/
theorem storeBytes_sameOutside {n : Nat} (covers : min (s.cfg.memSize - a) bs.length ≤ n) :
    SameMemoryOutside a n s (s.storeBytes a bs) := by
  intro b outside
  rw [storeBytes_mem, Memory.read_writeBytes canonical, if_neg (by rw [List.length_take]; omega)]

theorem storeBytes_onlyMemory (fits : a + bs.length ≤ s.cfg.memSize) :
    OnlyMemory a bs.length s (s.storeBytes a bs) := by
  have memory : SameMemoryOutside a bs.length s (s.storeBytes a bs) :=
    storeBytes_sameOutside canonical (min_le_right _ _)
  rw [State.storeBytes_ok (.inr fits)] at memory ⊢
  exact ⟨fun _ _ => rfl, rfl, rfl, rfl, memory, ⟨rfl, rfl⟩, ⟨rfl, rfl⟩, ⟨rfl, rfl⟩, rfl, rfl⟩

theorem storeBytes_faultFrame (nonempty : bs ≠ []) (past : s.cfg.memSize < a + bs.length) :
    FaultFrame [] a (s.cfg.memSize - a) s (s.storeBytes a bs) := by
  have memory : SameMemoryOutside a (s.cfg.memSize - a) s (s.storeBytes a bs) :=
    storeBytes_sameOutside canonical (min_le_left _ _)
  rw [State.storeBytes_fault nonempty past] at memory ⊢
  exact ⟨fun _ _ => rfl, rfl, rfl, rfl, memory, ⟨rfl, rfl⟩, ⟨rfl, rfl⟩, rfl, rfl, rfl⟩

/-- The fetch after a store from I reads the stored bytes where the store hit (R66). -/
theorem storeBytes_fetch (fits : s.effectiveAddr bs.length ≤ s.cfg.memSize) (word : s.pc + 1 < s.cfg.memSize) :
    FetchesAfterStore bs s (s.storeBytes (s.effectiveAddr 0) bs) := by
  have byte (b : Nat) : (s.mem.writeBytes (s.effectiveAddr 0) bs).read b = s.byteAfterStore bs b :=
    Memory.read_writeBytes canonical (s.effectiveAddr 0) b bs
  have inside : bs = [] ∨ s.effectiveAddr 0 + bs.length ≤ s.cfg.memSize := .inr fits
  rw [FetchesAfterStore, State.storeBytes_ok inside, State.fetch_eq, if_pos word, byte, byte]

end Store

theorem storeBytes_fault_status {s : State} {a : Nat} {bs : List Byte} (nonempty : bs ≠ [])
    (past : s.cfg.memSize < a + bs.length) : (s.storeBytes a bs).status =
      .faulted .memWriteOutOfBounds (max a s.cfg.memSize) (s.pc - 2) := by
  rw [State.storeBytes_fault nonempty past]
  rfl

/-! ### FX33 and FX55 (R205, R206) -/

section Blocks

variable (x : RegIdx) (s : State)

theorem exec_ldB :
    exec (.ldB x) s = .next (s.storeBytes (s.effectiveAddr 0) (decimalDigits (s.V x))) := rfl

theorem exec_storeRegs :
    exec (.storeRegs x) s = .next (s.storeBytes (s.effectiveAddr 0) ((regsUpTo x).map s.V)) := rfl

theorem decodeWord_storeRegs (x : BitVec 4) :
    decodeWord (0b1111#4 ++ x ++ 0b01010101#8) = .instr (.storeRegs x.toFin) := by
  simp [← encodeXK_eq, decodeWord, decodeF]

theorem length_registerBlock : ((regsUpTo x).map s.V).length = x.val + 1 := by
  rw [List.length_map, regsUpTo_length]

theorem registerBlock_ne_nil : (regsUpTo x).map s.V ≠ [] :=
  List.ne_nil_of_length_eq_add_one (length_registerBlock x s)

/-- A digit is a byte. -/
theorem toNat_digit {n : Nat} (small : n < 256) : (BitVec.ofNat 8 n).toNat = n := by
  rw [BitVec.toNat_ofNat, Nat.mod_eq_of_lt small]

variable {x s} (canonical : s.mem.wf)
include canonical

/-- The digits whose addresses lie in memory, as FX33 leaves them. -/
theorem ldB_digits :
    let t := s.storeBytes (s.effectiveAddr 0) (decimalDigits (s.V x))
    (s.effectiveAddr 0 < s.cfg.memSize → (t.mem.read (s.effectiveAddr 0)).toNat = (s.V x).toNat / 100) ∧
    (s.effectiveAddr 1 < s.cfg.memSize → (t.mem.read (s.effectiveAddr 1)).toNat = (s.V x).toNat / 10 % 10) ∧
    (s.effectiveAddr 2 < s.cfg.memSize → (t.mem.read (s.effectiveAddr 2)).toNat = (s.V x).toNat % 10) := by
  have := (s.V x).isLt
  have byte {k : Nat} (inBlock : k < 3) :=
    storeBytes_read (bs := decimalDigits (s.V x)) (a := s.effectiveAddr 0) canonical inBlock
  refine ⟨fun inside => ?_, fun inside => ?_, fun inside => ?_⟩
  · exact (congrArg BitVec.toNat (byte (k := 0) (by decide) inside)).trans (toNat_digit (by omega))
  · exact (congrArg BitVec.toNat (byte (k := 1) (by decide) inside)).trans (toNat_digit (by omega))
  · exact (congrArg BitVec.toNat (byte (k := 2) (by decide) inside)).trans (toNat_digit (by omega))

/-- A register of the block whose address lies in memory, as FX55 leaves it. -/
theorem storeRegs_read {k : RegIdx} (inBlock : k ≤ x) (inside : s.effectiveAddr k.val < s.cfg.memSize) :
    (s.storeBytes (s.effectiveAddr 0) ((regsUpTo x).map s.V)).mem.read (s.effectiveAddr k.val) = s.V k := by
  have small : k.val < ((regsUpTo x).map s.V).length := by
    rw [length_registerBlock]
    exact Nat.lt_succ_of_le inBlock
  rw [effectiveAddr_eq_add s k.val] at inside ⊢
  rw [storeBytes_read canonical small inside, List.getElem_map, regsUpTo_getElem]

end Blocks

/-! ### Canonical memories (R50) -/

/-- In a rising list, the byte found for an address is the one listed. -/
theorem lookupCell_eq_some_iff {l : List Host.Cell} (rising : l.Pairwise fun c d => c.1 < d.1) {a : Nat}
    {v : Byte} : lookupCell a l = some v ↔ (a, v) ∈ l := by
  induction l with
  | nil => simp [lookupCell]
  | cons c l ih =>
    obtain ⟨b, w⟩ := c
    obtain ⟨least, rising⟩ := List.pairwise_cons.mp rising
    by_cases head : a = b
    · subst head
      have gone : (a, v) ∉ l := fun mem => absurd (least _ mem) (lt_irrefl a)
      simp [lookupCell, gone, eq_comm]
    · simp [lookupCell, head, ih rising]

/-- A canonical memory lists exactly the bytes that do not read as if unlisted. -/
theorem mem_cells_iff {m : Memory} (canonical : m.wf) {a : Nat} {v : Byte} :
    (a, v) ∈ m.cells ↔ m.read a = v ∧ v ≠ unlisted a := by
  obtain ⟨rising, listed⟩ := canonical
  rw [← lookupCell_eq_some_iff rising, Memory.read]
  constructor
  · intro found
    exact ⟨by rw [found]; rfl, listed _ ((lookupCell_eq_some_iff rising).mp found)⟩
  · rintro ⟨reads, differs⟩
    cases found : lookupCell a m.cells with
    | none => rw [found] at reads; exact absurd reads.symm differs
    | some w => rw [found] at reads; exact congrArg some reads

/-! ### Power-on and program load (R251, R252) -/

theorem loadProgram_eq_none {s : State} {program : List Byte} :
    s.loadProgram program = none ↔ s.cfg.memSize - 0x200 < program.length := by
  rw [State.loadProgram, ite_eq_right_iff]
  simp [programBase]

theorem eq_of_loadProgram {s t : State} {program : List Byte} (load : s.loadProgram program = some t) :
    program.length ≤ s.cfg.memSize - programBase ∧ t = { s with mem := s.mem.writeBytes programBase program } := by
  unfold State.loadProgram at load
  split at load
  · rename_i size
    exact ⟨size, by simpa using load.symm⟩
  · cases load

theorem memSize_of_wf {cfg : Config} (fits : cfg.wf = true) : 4096 ≤ cfg.memSize := by
  simp [Config.wf] at fits
  exact fits.1

/-- A timer unit as created is sound. -/
theorem fresh_inv (c : Byte) (cfg : Config) : (TimerUnit.fresh c).Inv cfg := ⟨fun _ => rfl, fun _ => rfl⟩

theorem powerOn_inv {cfg : Config} {p : PowerOn} (env : Env) (config : cfg.wf = true) (power : p.wf cfg.memSize) :
    (State.powerOn cfg p env).Inv := by
  obtain ⟨glyphs, canonical, within⟩ := power
  have room := memSize_of_wf config
  exact
    { config := config
      mem_wf := Memory.writeBytes_wf canonical _ _
      mem_within := Memory.writeBytes_within within (by rw [glyphs]; unfold fontBase fontSize; omega)
      index := Nat.zero_le _
      depth := fun _ _ => Nat.zero_le _
      delay := fresh_inv _ _
      sound := fresh_inv _ _
      in_flight := fun _ => rfl }

theorem State.Inv.loadProgram {s t : State} (inv : s.Inv) {program : List Byte}
    (load : s.loadProgram program = some t) : t.Inv := by
  obtain ⟨size, rfl⟩ := eq_of_loadProgram load
  have room := memSize_of_wf inv.config
  exact inv.writeBytes (.inr (by unfold programBase at *; omega))

/-! ### The obligations -/

/-- Settles O50: three digits stored, or those that fit. -/
theorem decimalDigitsStored : Obligations.DecimalDigitsStored := by
  intro x s canonical
  obtain ⟨hundreds, tens, ones⟩ := ldB_digits (x := x) canonical
  refine ⟨fun fits => ?_, fun past => ?_⟩
  · have lower : s.effectiveAddr 0 < s.cfg.memSize ∧ s.effectiveAddr 1 < s.cfg.memSize := by
      simp only [State.effectiveAddr] at *
      omega
    exact ⟨_, exec_ldB x s, hundreds lower.1, tens lower.2, ones fits, storeBytes_onlyMemory canonical fits⟩
  · have out : s.cfg.memSize < s.effectiveAddr 0 + (decimalDigits (s.V x)).length := Nat.lt_succ_of_le past
    exact ⟨_, exec_ldB x s, storeBytes_fault_status nofun out, storeBytes_faultFrame canonical nofun out,
      hundreds, tens⟩

/-- Settles O51: the block stored, or the registers whose bytes fit. -/
theorem registerBlockStored : Obligations.RegisterBlockStored := by
  refine ⟨decodeWord_storeRegs, fun x s canonical => ⟨fun fits => ?_, fun past => ?_⟩⟩
  · rw [effectiveAddr_eq_add] at fits
    refine ⟨_, exec_storeRegs x s, fun k inBlock => storeRegs_read canonical inBlock ?_, ?_⟩
    · rw [effectiveAddr_eq_add]
      have : k.val ≤ x.val := inBlock
      omega
    · rw [← length_registerBlock x s]
      exact storeBytes_onlyMemory canonical (by rw [length_registerBlock]; omega)
  · rw [effectiveAddr_eq_add] at past
    have nonempty := registerBlock_ne_nil x s
    have out : s.cfg.memSize < s.effectiveAddr 0 + ((regsUpTo x).map s.V).length := by
      rw [length_registerBlock]
      omega
    refine ⟨_, exec_storeRegs x s, storeBytes_fault_status nonempty out, fun k inside => ?_,
      storeBytes_faultFrame canonical nonempty out⟩
    refine storeRegs_read canonical (Fin.le_def.mpr ?_) inside
    rw [effectiveAddr_eq_add] at inside
    omega

/-- Settles O53: the store and the load of the same block (O51, O52). -/
theorem storedRegistersLoadBack : Obligations.StoredRegistersLoadBack := by
  intro x s canonical fits
  obtain ⟨t, stored, bytes, -, index, -, -, -, -, -, -, cfg, -⟩ := (registerBlockStored.2 x s canonical).1 fits
  refine ⟨t, stored, fun u mem i params => ?_⟩
  have addr (k : Nat) : u.effectiveAddr k = s.effectiveAddr k := by
    rw [State.effectiveAddr, i, index, State.effectiveAddr]
  obtain ⟨w, loaded, regs, -⟩ := (registerBlockLoaded.2 x u).1 (by rwa [addr, params, cfg])
  exact ⟨w, loaded, fun k le => by rw [regs k le, addr, mem, bytes k le]⟩

/-- Settles O54: both stores leave the bytes that the fetch reads. -/
theorem storesAreSeenByTheNextFetch : Obligations.StoresAreSeenByTheNextFetch := by
  refine fun x s canonical word => ⟨fun fits => ?_, fun fits => ?_⟩
  · refine ⟨_, exec_storeRegs x s, storeBytes_fetch canonical ?_ word⟩
    rw [length_registerBlock]
    exact fits
  · exact ⟨_, exec_ldB x s, storeBytes_fetch canonical fits word⟩

/-- Settles O55: the two lists rise and list the same bytes. -/
theorem equalReadsAreEqualMemories : Obligations.EqualReadsAreEqualMemories := by
  intro m m' canonical canonical' same
  have irrefl : Std.Irrefl fun c d : Host.Cell => c.1 < d.1 := ⟨fun c => lt_irrefl c.1⟩
  have cells : m.cells = m'.cells := canonical.1.eq_of_mem_iff canonical'.1 fun ⟨a, v⟩ => by
    rw [mem_cells_iff canonical, mem_cells_iff canonical', same]
  exact congrArg Memory.mk cells

/-- Settles O56: the program is written over the font, and the font over `INIT_MEMORY`. -/
theorem powerOnStateIsAsSpecified : Obligations.PowerOnStateIsAsSpecified := by
  rintro cfg p env program ⟨glyphs, canonical, -⟩
  refine ⟨loadProgram_eq_none, fun s load => ?_⟩
  obtain ⟨-, rfl⟩ := eq_of_loadProgram load
  refine ⟨fun r => ?_, rfl, rfl, rfl, Grid.pixel_clear, fun a => ?_, rfl, rfl, rfl, rfl, rfl, rfl⟩
  · simp [State.V, State.powerOn, Vector.get_eq_getElem]
  · have font := Memory.read_writeBytes canonical fontBase a p.fontGlyphs
    rw [glyphs] at font
    exact (Memory.read_writeBytes (Memory.writeBytes_wf canonical _ _) _ _ _).trans (if_congr Iff.rfl rfl font)

/-- Settles O57: the power-on state meets the invariant, and the load keeps it. -/
theorem powerOnMeetsTheInvariant : Obligations.PowerOnMeetsTheInvariant :=
  fun _ _ env _ _ config power load => (powerOn_inv env config power).loadProgram load

/-- Settles O58: reset is a power-on, and its font reads as unlisted memory does. -/
theorem resetMeetsTheInvariant : Obligations.ResetMeetsTheInvariant :=
  ⟨powerOn_inv _ (by decide) (by decide), by decide, rfl, rfl⟩

end Sys2Proof.Machine

/-!
PROOFS. The end of a run (60_exceptions.md section 9): how every run ends, what is observed of it, and the runs
that never end.
-/

namespace Sys2Proof.Machine

/-! ### How a run ends (R245) -/

/-- While the Engine runs, a step exists or a stopped timer unit has the turn. -/
theorem step_of_running {s : State} (running : s.status = .running) :
    (∃ t, step s = .next t) ∨ ∃ u, step s = .fault (.timerStopped u) := by
  cases turn : s.turn with
  | engine => exact .inl (exists_step_of_running turn running)
  | timer u =>
    cases moved : (s.timer u).tick s.cfg with
    | none => exact .inr ⟨u, step_of_noTick turn moved⟩
    | some unit => exact .inl ⟨_, step_of_tick turn moved⟩

/-- A run that reaches a stopped Engine ends well or badly. -/
theorem ends_of_stopped {s t : State} {k : Nat} (run : Reaches s k t) (stopped : t.status ≠ .running) :
    (∃ o, EndsWellWith s o) ∨ EndsBadly s := by
  cases status : t.status with
  | running => exact absurd status stopped
  | halted => exact .inl ⟨t.observed, k, t, run, status, rfl⟩
  | faulted reason info a => exact .inr ⟨k, t, run, reason, info, a, status⟩

/-- After any number of steps the run has ended, was cut short, or still has its Engine running. -/
theorem ends_or_runs (s : State) (k : Nat) :
    ((∃ o, EndsWellWith s o) ∨ EndsBadly s) ∨ CutShort s ∨ ∃ t, Reaches s k t ∧ t.status = .running := by
  induction k with
  | zero =>
    by_cases running : s.status = .running
    · exact .inr (.inr ⟨s, rfl, running⟩)
    · exact .inl (ends_of_stopped (k := 0) rfl running)
  | succ k ih =>
    obtain ended | cut | ⟨t, run, running⟩ := ih
    · exact .inl ended
    · exact .inr (.inl cut)
    · obtain ⟨u, next⟩ | ⟨unit, stuck⟩ := step_of_running running
      · by_cases still : u.status = .running
        · exact .inr (.inr ⟨u, ⟨t, run, next⟩, still⟩)
        · exact .inl (ends_of_stopped (k := k + 1) ⟨t, run, next⟩ still)
      · exact .inr (.inl ⟨k, t, unit, run, running, stuck⟩)

theorem run_ends (s : State) : (∃ o, EndsWellWith s o) ∨ EndsBadly s ∨ Hangs s ∨ CutShort s := by
  by_cases hang : Hangs s
  · exact .inr (.inr (.inl hang))
  · obtain ⟨k, stops⟩ := not_forall.mp hang
    obtain (well | bad) | cut | runs := ends_or_runs s k
    · exact .inl well
    · exact .inr (.inl bad)
    · exact .inr (.inr (.inr cut))
    · exact absurd runs stops

/-! ### One observed final state (R239, R246) -/

section Final

variable {s t u : State} {j k : Nat}

/-- Once stopped, later states of the run have its status and its observed part. -/
theorem same_of_later (run : Reaches s j t) (later : Reaches s k u) (le : j ≤ k)
    (stopped : t.status ≠ .running) : u.status = t.status ∧ u.observed = t.observed := by
  obtain ⟨m, rfl⟩ := Nat.exists_eq_add_of_le le
  obtain ⟨t', run', rest⟩ := reaches_split later
  obtain rfl := reaches_unique run run'
  obtain ⟨same, -⟩ := reaches_onlyTicks_of_stopped stopped rest
  rw [same]
  exact ⟨rfl, rfl⟩

/-- Any two stopped states of a run agree. -/
theorem same_of_stopped (run : Reaches s j t) (run' : Reaches s k u) (stopped : t.status ≠ .running)
    (stopped' : u.status ≠ .running) : u.status = t.status ∧ u.observed = t.observed := by
  obtain le | le := le_total j k
  · exact same_of_later run run' le stopped
  · obtain ⟨status, observed⟩ := same_of_later run' run le stopped'
    exact ⟨status.symm, observed.symm⟩

theorem observed_unique {o o' : Observed} (h : EndsWellWith s o) (h' : EndsWellWith s o') : o = o' := by
  obtain ⟨j, t, run, well, rfl⟩ := h
  obtain ⟨k, u, run', well', rfl⟩ := h'
  have stopped {v : State} (well : v.endedWell) : v.status ≠ .running := by simp [show v.status = .halted from well]
  exact (same_of_stopped run run' (stopped well) (stopped well')).2.symm

theorem not_endsWell_of_endsBadly {o : Observed} (bad : EndsBadly s) : ¬ EndsWellWith s o := by
  rintro ⟨k, u, run', well, -⟩
  obtain ⟨j, t, run, reason, info, a, faulted⟩ := bad
  have halted : u.status = .halted := well
  have same := (same_of_stopped run run' (by simp [faulted]) (by simp [halted])).1
  simp [faulted, halted] at same

theorem not_endsWell_of_hangs {o : Observed} (hang : Hangs s) : ¬ EndsWellWith s o := by
  rintro ⟨k, u, run, well, -⟩
  obtain ⟨t, run', running⟩ := hang k
  have halted : u.status = .halted := well
  simp [reaches_unique run run', running] at halted

end Final

/-! ### The halt (R104, R225) -/

/-- An instruction keeps the status, faults, or is the 00EE that halts. -/
theorem exec_status {i : Instr} {s t : State} (h : exec i s = .next t) :
    KeptOrFaulted s t.status ∨ i = .ret ∧ s.stack = [] := by
  cases exec_cases h with
  | registers v status named kept result => exact .inl (result ▸ kept)
  | store n bs status stores size inside kept result => exact .inl (result ▸ kept)
  | halt isRet empty => exact .inr ⟨isRet, empty⟩
  | beginSet u x isSet result => exact .inl (.inl (result ▸ State.beginTimerSet_status s u _))
  | _ => subst_vars; exact .inl (.inl rfl)

/-- The Engine halts exactly by 00EE with an empty store. -/
theorem step_halts_iff {s t : State} (running : s.status = .running) (next : step s = .next t) :
    t.endedWell ↔ s.turn = .engine ∧ s.setInFlight = none ∧ s.stack = [] ∧
      ∃ w, s.fetch = some w ∧ decodeWord w = .instr .ret := by
  constructor
  · intro halted
    rw [State.endedWell] at halted
    cases step_cases next with
    | add u b turn _ flight result => simp [result, running] at halted
    | badFetch turn _ idle fetch result => simp [result] at halted
    | badWord w why turn _ idle fetch decode result => simp [result] at halted
    | run w i turn _ idle fetch decode result =>
      obtain (kept | ⟨why, info, a, fault⟩) | ⟨rfl, empty⟩ := exec_status result
      · simp [halted, running] at kept
      · simp [halted] at fault
      · exact ⟨turn, idle, empty, w, fetch, decode⟩
    | tick u unit turn moved result => simp [result, running] at halted
  · rintro ⟨turn, idle, empty, w, fetch, decode⟩
    have halt := step_of_instr turn running idle fetch decode
    rw [exec_ret_halt (s.afterTurn.goto (s.pc + 2)) empty, next] at halt
    obtain rfl : t = _ := by simpa using halt
    rfl

/-! ### Runs that stay where they are (R105, R182) -/

/-- The Engine is about to fetch in `t` as it was in `s`, with nothing observed changed. -/
structure SameSpot (s t : State) : Prop where
  running : t.status = .running
  idle : t.setInFlight = none
  observed : t.observed = s.observed
  cfg : t.cfg = s.cfg

theorem SameSpot.trans {s t u : State} (h : SameSpot s t) (h' : SameSpot t u) : SameSpot s u :=
  ⟨h'.running, h'.idle, h'.observed.trans h.observed, h'.cfg.trans h.cfg⟩

theorem SameSpot.pc {s t : State} (h : SameSpot s t) : t.pc = s.pc := congrArg Observed.pc h.observed

theorem SameSpot.fetch {s t : State} (h : SameSpot s t) : t.fetch = s.fetch := by
  have mem : t.mem = s.mem := congrArg Observed.mem h.observed
  rw [State.fetch_eq, State.fetch_eq, h.pc, mem, h.cfg]

/-- A step stays at its spot when the instruction there leads back to it: ticks never leave it. -/
theorem step_sameSpot {s t : State} {w : Word} {i : Instr} (running : s.status = .running)
    (idle : s.setInFlight = none) (fetch : s.fetch = some w) (decode : decodeWord w = .instr i)
    (back : ∃ u, exec i (s.afterTurn.goto (s.pc + 2)) = .next u ∧ SameSpot s u) (next : step s = .next t) :
    SameSpot s t := by
  obtain ⟨turn, -⟩ | ⟨u, unit, -, -, rfl⟩ := running_or_tick_of_step next
  · obtain ⟨u, result, same⟩ := back
    obtain rfl : t = u := by
      simpa [step_of_instr turn running idle fetch decode, result] using next.symm
    exact same
  · exact ⟨by simpa using running, by simpa using idle, by simp, by simp⟩

theorem jp_sameSpot {s : State} (running : s.status = .running) (idle : s.setInFlight = none) :
    ∃ u, exec (.jp s.pc) (s.afterTurn.goto (s.pc + 2)) = .next u ∧ SameSpot s u :=
  ⟨_, rfl, running, idle, rfl, rfl⟩

theorem ldVxK_sameSpot {s : State} (running : s.status = .running) (idle : s.setInFlight = none)
    (noKey : s.firstAnswer = none) (x : RegIdx) :
    ∃ u, exec (.ldVxK x) (s.afterTurn.goto (s.pc + 2)) = .next u ∧ SameSpot s u :=
  ⟨_, exec_ldVxK_none x (s.afterTurn.goto (s.pc + 2)) noKey, running, idle, rfl, rfl⟩

section Stay

variable {s t : State} {w : Word} {k : Nat} (running : s.status = .running) (idle : s.setInFlight = none)
  (fetch : s.fetch = some w)
include running idle fetch

/-- A jump to itself stays. -/
theorem reaches_sameSpot_of_jp (decode : decodeWord w = .instr (.jp s.pc)) (run : Reaches s k t) :
    SameSpot s t := by
  refine reaches_induct (P := SameSpot s) (fun u v here next => here.trans ?_) run ⟨running, idle, rfl, rfl⟩
  exact step_sameSpot here.running here.idle (here.fetch.trans fetch) decode
    (here.pc ▸ jp_sameSpot here.running here.idle) next

/-- A wait for a key stays while the host answers that none is held. -/
theorem reaches_sameSpot_of_ldVxK {x : RegIdx} (decode : decodeWord w = .instr (.ldVxK x))
    (noKey : ∀ j u, j < k → Reaches s j u → u.firstAnswer = none) (run : Reaches s k t) : SameSpot s t := by
  induction k generalizing t with
  | zero =>
    obtain rfl : t = s := run
    exact ⟨running, idle, rfl, rfl⟩
  | succ k ih =>
    obtain ⟨u, run, next⟩ := run
    have here := ih (fun j v lt => noKey j v (Nat.lt_succ_of_lt lt)) run
    have answer := noKey k u (Nat.lt_succ_self k) run
    exact here.trans (step_sameSpot here.running here.idle (here.fetch.trans fetch) decode
      (ldVxK_sameSpot here.running here.idle answer x) next)

end Stay

/-- Settles O60: the classification, the one observed final state, what refutes it, the halt, and the two
hangs. -/
theorem runsEndWellBadlyOrHang : Obligations.RunsEndWellBadlyOrHang := by
  refine ⟨run_ends, fun s o o' => observed_unique, fun s o => ?_, fun s t => step_halts_iff, ?_, ?_⟩
  · rintro (bad | hang)
    · exact not_endsWell_of_endsBadly bad
    · exact not_endsWell_of_hangs hang
  · intro s t w k running idle fetch decode run
    have here := reaches_sameSpot_of_jp running idle fetch decode run
    exact ⟨here.running, here.observed⟩
  · intro s t w x k running idle fetch decode noKey run
    have here := reaches_sameSpot_of_ldVxK running idle fetch decode noKey run
    exact ⟨here.running, here.observed⟩

end Sys2Proof.Machine
